-- ==== Sys2Proof/Word.lean ====
section
/-!
DEFINITION. Word types of the IRTX core: the 12-bit bus-operation word (30_encoding.md R70), the 8-bit register
value (10_state.md R23), the 2-bit register address (20_memory.md R51) and the 16-bit ROM entry (30_encoding.md R77).
-/

namespace Sys2Proof

/-- A bus-operation word, 12 bits (30_encoding.md R70). -/
abbrev BusWord := BitVec 12

/-- The value of a host-visible register, and the data field D of a bus word, 8 bits (10_state.md R23). -/
abbrev Byte := BitVec 8

/-- The address field A of a bus word, 2 bits (20_memory.md R51). -/
abbrev RegAddr := BitVec 2

/-- One ROM entry: an unsigned duration in units of 10 µs, 16 bits (30_encoding.md R77). -/
abbrev Entry := BitVec 16

end Sys2Proof
end

