-- ==== Sys2Proof/Syntax.lean ====
section
/-!
DEFINITION. The instructions: one constructor per row of spec/opcode_table.json (30_encoding.md R79). A bit that a row
ignores and its rule names no operand for (NOP's bits 10:0, a read's bits 7:0) is no field (log entry 17).
-/

namespace Sys2Proof

/-- A bus operation, as 30_encoding.md R79 names them. -/
inductive Instr
  /-- No access (45_register_access.md R206). -/
  | nop
  /-- Read CMD (45_register_access.md R202). -/
  | rdCmd
  /-- Read STATUS (45_register_access.md R203). -/
  | rdStatus
  /-- Read PHASE (45_register_access.md R204). -/
  | rdPhase
  /-- Read RSVD (45_register_access.md R205). -/
  | rdRsvd
  /-- `WR CMD, 1` (44_transmission_engine.md R170). -/
  | txAPlus
  /-- `WR CMD, 2` (R171). -/
  | txAMinus
  /-- `WR CMD, 3` (R172). -/
  | txAOff
  /-- `WR CMD, 4` (R173). -/
  | txBPlus
  /-- `WR CMD, 5` (R174). -/
  | txBMinus
  /-- `WR CMD, 6` (R175). -/
  | txBOff
  /-- `WR CMD, 7` (R176). -/
  | txCPlus
  /-- `WR CMD, 8` (R177). -/
  | txCMinus
  /-- `WR CMD, 9` (R178). -/
  | txCOff
  /-- `WR CMD, 10` (R179). -/
  | txDPlus
  /-- `WR CMD, 11` (R180). -/
  | txDMinus
  /-- `WR CMD, 12` (R181). -/
  | txDOff
  /-- `WR CMD, 0` (R182). -/
  | txInvalid0
  /-- `WR CMD, 13` (R182). -/
  | txInvalid13
  /-- `WR CMD, 14` (R182). -/
  | txInvalid14
  /-- `WR CMD, 15` (R182). -/
  | txInvalid15
  /-- `WR CMD, sel` with sel 16 to 31 (R182). -/
  | txInvalid16To31 (sel : Byte)
  /-- `WR CMD, sel` with sel 32 to 63 (R182). -/
  | txInvalid32To63 (sel : Byte)
  /-- `WR CMD, sel` with sel 64 to 127 (R182). -/
  | txInvalid64To127 (sel : Byte)
  /-- `WR CMD, sel` with sel 128 to 255 (R182). -/
  | txInvalid128To255 (sel : Byte)
  /-- `WR STATUS, d`, d a clear mask (45_register_access.md R207). -/
  | wrStatus (d : Byte)
  /-- `WR PHASE, d`, d ignored (45_register_access.md R208). -/
  | wrPhase (d : Byte)
  /-- `WR RSVD, d`, d ignored (45_register_access.md R209). -/
  | wrRsvd (d : Byte)
  deriving DecidableEq, Repr

end Sys2Proof
end

