-- ==== Sys2Proof/WellFormed.lean ====
section
/-!
DEFINITION. Which terms of Instr stand for bus words: the four TX_INVALID rows that cover a range of selectors hold a
selector of that range (30_encoding.md R79). Every other term stands for a word as it is.
-/

namespace Sys2Proof

/-- The check of one instruction term against the ranges of 30_encoding.md R79. -/
def Instr.wellFormed : Instr → Bool
  | .txInvalid16To31 sel => 16 ≤ sel.toNat && sel.toNat ≤ 31
  | .txInvalid32To63 sel => 32 ≤ sel.toNat && sel.toNat ≤ 63
  | .txInvalid64To127 sel => 64 ≤ sel.toNat && sel.toNat ≤ 127
  | .txInvalid128To255 sel => 128 ≤ sel.toNat
  | .nop | .rdCmd | .rdStatus | .rdPhase | .rdRsvd
  | .txAPlus | .txAMinus | .txAOff | .txBPlus | .txBMinus | .txBOff
  | .txCPlus | .txCMinus | .txCOff | .txDPlus | .txDMinus | .txDOff
  | .txInvalid0 | .txInvalid13 | .txInvalid14 | .txInvalid15
  | .wrStatus _ | .wrPhase _ | .wrRsvd _ => true

/-- The term stands for a bus word of 30_encoding.md R79. -/
abbrev Instr.WellFormed (i : Instr) : Prop := i.wellFormed = true

end Sys2Proof
end

