-- ==== Sys2Proof/Decode.lean ====
section
/-!
DEFINITION. The decoder of the bus-operation word (30_encoding.md R70 to R79), the encoder written from the same rows,
and the rows themselves as masks and matches.
-/

namespace Sys2Proof

/-- Bit 11, V: an access is made this tick (30_encoding.md R70). -/
def fieldV (w : BusWord) : Bool := w.getLsbD 11

/-- Bit 10, WE: write, not read (30_encoding.md R70). -/
def fieldWE (w : BusWord) : Bool := w.getLsbD 10

/-- Bits 9:8, A: the register address (30_encoding.md R70). -/
def fieldA (w : BusWord) : RegAddr := w.extractLsb' 8 2

/-- Bits 7:0, D: the write data (30_encoding.md R70). -/
def fieldD (w : BusWord) : Byte := w.extractLsb' 0 8

/-- The row of a CMD write with selector `sel` (30_encoding.md R74, R75, R79). -/
def decodeTx (sel : Byte) : Instr :=
  match sel.toNat with
  | 0 => .txInvalid0
  | 1 => .txAPlus
  | 2 => .txAMinus
  | 3 => .txAOff
  | 4 => .txBPlus
  | 5 => .txBMinus
  | 6 => .txBOff
  | 7 => .txCPlus
  | 8 => .txCMinus
  | 9 => .txCOff
  | 10 => .txDPlus
  | 11 => .txDMinus
  | 12 => .txDOff
  | 13 => .txInvalid13
  | 14 => .txInvalid14
  | 15 => .txInvalid15
  | n =>
    if n < 32 then .txInvalid16To31 sel
    else if n < 64 then .txInvalid32To63 sel
    else if n < 128 then .txInvalid64To127 sel
    else .txInvalid128To255 sel

/-- A read of the register at address `a` (30_encoding.md R72). -/
def decodeRead (a : RegAddr) : Instr :=
  match a.toNat with
  | 0 => .rdCmd
  | 1 => .rdStatus
  | 2 => .rdPhase
  | _ => .rdRsvd

/-- A write of `d` to the register at address `a` (30_encoding.md R73). -/
def decodeWrite (a : RegAddr) (d : Byte) : Instr :=
  match a.toNat with
  | 0 => decodeTx d
  | 1 => .wrStatus d
  | 2 => .wrPhase d
  | _ => .wrRsvd d

/-- The instruction of a 12-bit word: total, no word is illegal (30_encoding.md R70, R79, R80). -/
def decodeWord (w : BusWord) : Instr :=
  if fieldV w then
    if fieldWE w then decodeWrite (fieldA w) (fieldD w) else decodeRead (fieldA w)
  else .nop

/-- Why a number driven on the bus is no bus word. -/
inductive DecodeError
  /-- It has a bit above bit 11 (93_implementation_defined.md I7). -/
  | wideWord
  deriving DecidableEq, Repr

/-- The decoder on any number a host drives: a word wider than 12 bits is rejected by name
(93_implementation_defined.md I7). -/
def decode (w : Nat) : Except DecodeError Instr :=
  if w < 4096 then .ok (decodeWord (BitVec.ofNat 12 w)) else .error .wideWord

/-- `sel` of a WR CMD word, the word's D field, for the rows of 30_encoding.md R79 that write CMD. -/
def Instr.selector? : Instr → Option Byte
  | .txInvalid0 => some 0
  | .txAPlus => some 1
  | .txAMinus => some 2
  | .txAOff => some 3
  | .txBPlus => some 4
  | .txBMinus => some 5
  | .txBOff => some 6
  | .txCPlus => some 7
  | .txCMinus => some 8
  | .txCOff => some 9
  | .txDPlus => some 10
  | .txDMinus => some 11
  | .txDOff => some 12
  | .txInvalid13 => some 13
  | .txInvalid14 => some 14
  | .txInvalid15 => some 15
  | .txInvalid16To31 sel | .txInvalid32To63 sel | .txInvalid64To127 sel | .txInvalid128To255 sel => some sel
  | .nop | .rdCmd | .rdStatus | .rdPhase | .rdRsvd | .wrStatus _ | .wrPhase _ | .wrRsvd _ => none

/-- The word with V = 1, the given WE and A, and D (30_encoding.md R70). -/
def busWord (we : Bool) (a : RegAddr) (d : Byte) : BusWord :=
  (1#1 ++ BitVec.ofBool we ++ a ++ d : BitVec (1 + 1 + 2 + 8))

/-- The canonical word of an instruction: ignored bits are 0 (30_encoding.md R71 to R73, R83). -/
def encode : Instr → BusWord
  | .nop => 0x000
  | .rdCmd => busWord false 0 0
  | .rdStatus => busWord false 1 0
  | .rdPhase => busWord false 2 0
  | .rdRsvd => busWord false 3 0
  | .txInvalid0 => busWord true 0 0
  | .txAPlus => busWord true 0 1
  | .txAMinus => busWord true 0 2
  | .txAOff => busWord true 0 3
  | .txBPlus => busWord true 0 4
  | .txBMinus => busWord true 0 5
  | .txBOff => busWord true 0 6
  | .txCPlus => busWord true 0 7
  | .txCMinus => busWord true 0 8
  | .txCOff => busWord true 0 9
  | .txDPlus => busWord true 0 10
  | .txDMinus => busWord true 0 11
  | .txDOff => busWord true 0 12
  | .txInvalid13 => busWord true 0 13
  | .txInvalid14 => busWord true 0 14
  | .txInvalid15 => busWord true 0 15
  | .txInvalid16To31 sel => busWord true 0 sel
  | .txInvalid32To63 sel => busWord true 0 sel
  | .txInvalid64To127 sel => busWord true 0 sel
  | .txInvalid128To255 sel => busWord true 0 sel
  | .wrStatus d => busWord true 1 d
  | .wrPhase d => busWord true 2 d
  | .wrRsvd d => busWord true 3 d

/-- One row of the opcode table: the fixed bits and the bits that select them (spec/opcode_table.json). -/
structure OpcodeRow where
  mnemonic : String
  pattern : BusWord
  mask : BusWord
  deriving DecidableEq, Repr

/-- A word matches a row when its masked bits are the row's pattern. -/
def OpcodeRow.accepts (r : OpcodeRow) (w : BusWord) : Bool := w &&& r.mask == r.pattern

/-- The row an instruction stands in (30_encoding.md R79, spec/opcode_table.json). -/
def opcodeRow : Instr → OpcodeRow
  | .nop => ⟨"NOP", 0x000, 0x800⟩
  | .rdCmd => ⟨"RD_CMD", 0x800, 0xF00⟩
  | .rdStatus => ⟨"RD_STATUS", 0x900, 0xF00⟩
  | .rdPhase => ⟨"RD_PHASE", 0xA00, 0xF00⟩
  | .rdRsvd => ⟨"RD_RSVD", 0xB00, 0xF00⟩
  | .txAPlus => ⟨"TX_A_PLUS", 0xC01, 0xFFF⟩
  | .txAMinus => ⟨"TX_A_MINUS", 0xC02, 0xFFF⟩
  | .txAOff => ⟨"TX_A_OFF", 0xC03, 0xFFF⟩
  | .txBPlus => ⟨"TX_B_PLUS", 0xC04, 0xFFF⟩
  | .txBMinus => ⟨"TX_B_MINUS", 0xC05, 0xFFF⟩
  | .txBOff => ⟨"TX_B_OFF", 0xC06, 0xFFF⟩
  | .txCPlus => ⟨"TX_C_PLUS", 0xC07, 0xFFF⟩
  | .txCMinus => ⟨"TX_C_MINUS", 0xC08, 0xFFF⟩
  | .txCOff => ⟨"TX_C_OFF", 0xC09, 0xFFF⟩
  | .txDPlus => ⟨"TX_D_PLUS", 0xC0A, 0xFFF⟩
  | .txDMinus => ⟨"TX_D_MINUS", 0xC0B, 0xFFF⟩
  | .txDOff => ⟨"TX_D_OFF", 0xC0C, 0xFFF⟩
  | .txInvalid0 => ⟨"TX_INVALID_0", 0xC00, 0xFFF⟩
  | .txInvalid13 => ⟨"TX_INVALID_13", 0xC0D, 0xFFF⟩
  | .txInvalid14 => ⟨"TX_INVALID_14", 0xC0E, 0xFFF⟩
  | .txInvalid15 => ⟨"TX_INVALID_15", 0xC0F, 0xFFF⟩
  | .txInvalid16To31 _ => ⟨"TX_INVALID_16_31", 0xC10, 0xFF0⟩
  | .txInvalid32To63 _ => ⟨"TX_INVALID_32_63", 0xC20, 0xFE0⟩
  | .txInvalid64To127 _ => ⟨"TX_INVALID_64_127", 0xC40, 0xFC0⟩
  | .txInvalid128To255 _ => ⟨"TX_INVALID_128_255", 0xC80, 0xF80⟩
  | .wrStatus _ => ⟨"WR_STATUS", 0xD00, 0xF00⟩
  | .wrPhase _ => ⟨"WR_PHASE", 0xE00, 0xF00⟩
  | .wrRsvd _ => ⟨"WR_RSVD", 0xF00, 0xF00⟩

/-- The 28 rows of spec/opcode_table.json. -/
def opcodeRows : List OpcodeRow :=
  [.nop, .rdCmd, .rdStatus, .rdPhase, .rdRsvd, .txAPlus, .txAMinus, .txAOff, .txBPlus, .txBMinus, .txBOff, .txCPlus,
    .txCMinus, .txCOff, .txDPlus, .txDMinus, .txDOff, .txInvalid0, .txInvalid13, .txInvalid14, .txInvalid15,
    .txInvalid16To31 16, .txInvalid32To63 32, .txInvalid64To127 64, .txInvalid128To255 128, .wrStatus 0, .wrPhase 0,
    .wrRsvd 0].map opcodeRow

/-- The instruction the decoder reads from the bits `w` of a table row. The table gives a row 12 bits, so a number
with a higher bit is no word; `nbits` says nothing more. -/
def decodeTableWord (_nbits w : Nat) : Option Instr :=
  match decode w with
  | .ok i => some i
  | .error _ => none

end Sys2Proof
end

