-- ==== Sys2Proof/Config.lean ====
section
/-!
DEFINITION. What is fixed when the block is built (10_state.md R40, 00_scope.md R7): TICKS_PER_US, COMP_TICKS,
the eleven open pulse tables and SEL_MAP. The contents of the open tables at reset, and the two free
values of states that no run meets, are constants without a body.
-/

namespace Sys2Proof

/-- One (mark, space) entry of a pulse table, in units of 10 µs (00_scope.md R15, 41_pulse_table.md R101). -/
structure Pair where
  mark : Entry
  space : Entry
  deriving DecidableEq, Repr, Inhabited

/-- A pulse table: exactly NUM_PAIRS = 14 pairs, in order (41_pulse_table.md R101). -/
abbrev PulseTable := Vector Pair 14

/-- The four channels (00_scope.md R15). -/
inductive Channel
  | a | b | c | d
  deriving DecidableEq, Repr

/-- The three commands, in the source's order (00_scope.md R15, 41_pulse_table.md R106). -/
inductive Command
  | plus | minus | off
  deriving DecidableEq, Repr

/-- The parameters a block is built with (00_scope.md R7, 10_state.md R40). No operation writes one. -/
structure Params where
  /-- TICKS_PER_US, a natural number at least 1. -/
  ticksPerUs : Nat
  /-- COMP_TICKS, the ticks added to each carrier half-cycle (42_carrier_modulator.md R125). -/
  compTicks : Nat
  /-- PULSE_TABLE: the tables of selectors 1, 2, 4, 5, ..., 12, in that order (41_pulse_table.md R104). Selector 3's
  table is no parameter: the source fixes it (41_pulse_table.md R103). -/
  openTables : Vector PulseTable 11
  /-- SEL_MAP: the (channel, command) names of selectors 1 to 12, in that order (41_pulse_table.md R106). -/
  selMap : Vector (Channel × Command) 12
  deriving DecidableEq, Repr

/-- What 00_scope.md R7 asks of the parameters: TICKS_PER_US is at least 1, SEL_MAP names no pair twice, and the one
entry the source gives, selector 3 = (A, off), holds. -/
abbrev Params.Wf (p : Params) : Prop :=
  1 ≤ p.ticksPerUs ∧ p.selMap.toList.Nodup ∧ p.selMap[2] = (Channel.a, Command.off)

namespace Config

/-- The pair `i` of PULSE_TABLE(`sel`), for the selectors whose table no source gives (41_pulse_table.md R104,
91_not_in_source.md N1). OPEN: it has no body, so nothing can be proved of a value (log entry 4). -/
opaque openPair (sel i : Nat) : Pair

/-- The 14 open pairs of one selector. -/
def openTable (sel : Nat) : PulseTable :=
  #v[openPair sel 0, openPair sel 1, openPair sel 2, openPair sel 3, openPair sel 4, openPair sel 5, openPair sel 6,
    openPair sel 7, openPair sel 8, openPair sel 9, openPair sel 10, openPair sel 11, openPair sel 12, openPair sel 13]

/-- The pair `i` the sequencer would read for a `sel_r` that has no table. 41_pulse_table.md R107 gives such a selector no
table and no run reads one (10_state.md R41), but 44_transmission_engine.md R190 gives every state a next one. A free
value: it has no body, so nothing can be proved of it (log entry 8). -/
opaque strayPair (sel i : Nat) : Pair

/-- What `tmr` would hold after the tick of a busy block whose `tmr` was 0 already. 44_transmission_engine.md R191 takes
one off, which is no natural number as 10_state.md R20 asks, and R190 gives every state a next one. A free value of the
sequencer's position (phase code, idx, sel_r, ctr): it has no body, so nothing can be proved of it (log entry 9). -/
opaque timerBelowZero (phase idx sel : Nat) (ctr : Int) : Nat

/-- SEL_MAP's default, channel-major with the commands in the order plus, minus, off (41_pulse_table.md R106). -/
def defaultSelMap : Vector (Channel × Command) 12 :=
  #v[(.a, .plus), (.a, .minus), (.a, .off), (.b, .plus), (.b, .minus), (.b, .off),
    (.c, .plus), (.c, .minus), (.c, .off), (.d, .plus), (.d, .minus), (.d, .off)]

end Config

/-- The parameters with the defaults of 00_scope.md R7; the open tables stay open (log entries 4, 5 and 6). -/
def Params.default : Params where
  ticksPerUs := 1
  compTicks := 0
  openTables := #v[Config.openTable 1, Config.openTable 2, Config.openTable 4, Config.openTable 5, Config.openTable 6,
    Config.openTable 7, Config.openTable 8, Config.openTable 9, Config.openTable 10, Config.openTable 11,
    Config.openTable 12]
  selMap := Config.defaultSelMap

end Sys2Proof
end

