-- ==== Sys2Proof/Machine/State.lean ====
section
/-!
DEFINITION. The state of the IRTX core (10_state.md R20), the inputs still to come, the observation made so far, the
reasons to stop, and the state after reset (10_state.md R42).
-/

namespace Sys2Proof.Machine

/-- The sequencer's activity (10_state.md R30). Codes 5, 6 and 7 are never held, so they have no constructor
(log entry 16). -/
inductive Phase
  | idle | markHi | markLo | space | guard
  deriving DecidableEq, Repr

/-- The spec's state record (10_state.md R20): all the state there is in the block. -/
structure Block where
  /-- The sequencer's activity (R30). -/
  phase : Phase
  /-- The index of the pair being sent, 0 to 13 (R31). -/
  idx : Fin 14
  /-- The selector of the current or last frame, 0 before any accept, in its 8 bits (R32). No run holds one above 12
  (10_state.md R41, log entry 8). -/
  selR : Byte
  /-- The mark counter in µs, signed (R33). -/
  ctr : Int
  /-- Ticks left in the segment, counting the current tick (R34). -/
  tmr : Nat
  /-- STATUS.DONE (R27). -/
  done : Bool
  /-- STATUS.ERR_SEL (R28). -/
  errSel : Bool
  /-- STATUS.OVR (R29). -/
  ovr : Bool
  deriving DecidableEq, Repr

/-- ResetState, the values of 10_state.md R42. -/
def Block.reset : Block where
  phase := .idle
  idx := 0
  selR := 0
  ctr := 0
  tmr := 0
  done := false
  errSel := false
  ovr := false

/-- What the host does in one tick: the reset input and the bus words it drives (10_state.md R39). No word is a tick
without access. More than one word, or a word of more than 12 bits, can be written down here so that the step can
refuse it (93_implementation_defined.md I7, log entry 10). -/
structure HostTick where
  rst : Bool
  words : List Nat
  deriving DecidableEq, Repr

/-- The host leaves the block alone: no access, no reset (10_state.md R39). -/
def HostTick.quiet : HostTick := ⟨false, []⟩

/-- An error event with the selector of the write that raised it (00_scope.md R11, 60_exceptions.md R220). -/
inductive ErrorEvent
  /-- 60_exceptions.md R221. -/
  | invalidSelector (sel : Byte)
  /-- 60_exceptions.md R223. -/
  | overrun (sel : Byte)
  deriving DecidableEq, Repr

/-- What one tick shows: the pin and the value of a bus read (44_transmission_engine.md R194), and the error event the
tick raised (60_exceptions.md R235). -/
structure TickRecord where
  pin : Bool
  read : Option Byte
  event : Option ErrorEvent
  deriving DecidableEq, Repr

/-- The machine: the block, what it was built with, the host's coming ticks and the record of the past ones. -/
structure State where
  /-- The state of the block (10_state.md R20). -/
  block : Block
  /-- The parameters the block was built with; no step writes them (10_state.md R40, log entry 3). -/
  params : Params
  /-- The model's own: what the host does in the ticks to come, soonest first; when none is listed the host makes no
  access (10_state.md R39, log entry 1). -/
  inputs : List HostTick
  /-- The model's own: one record per past tick, latest first; nothing clears it (44_transmission_engine.md R194,
  60_exceptions.md R235, log entry 7). -/
  history : List TickRecord
  deriving DecidableEq, Repr

/-- Why the machine can stop with a fault: for no reason. The block has no trap (60_exceptions.md R220) and every state
has a next one (44_transmission_engine.md R190), so the type is empty. -/
inductive Fault
  deriving DecidableEq, Repr

/-- Why the machine gives an input no meaning. -/
inductive Refusal
  /-- Raised by `exec` for an instruction without a meaning; no arm does. Safe. -/
  | notModelled (mnemonic : String)
  /-- Raised by `step` when the host drives two or more words in one tick (93_implementation_defined.md I7, log entry
  10). Safe: the spec gives such a host no move. -/
  | twoOperations
  /-- Raised by `step` when the host drives a word of more than 12 bits (93_implementation_defined.md I7, log entry
  10). Safe: the spec gives such a host no move. -/
  | wideWord
  deriving DecidableEq, Repr

/-- The machine right after reset: the block's reset state (10_state.md R42), built with the spec's default parameters
(00_scope.md R7), nothing observed and no input listed. -/
def State.reset : State where
  block := .reset
  params := .default
  inputs := []
  history := []

end Sys2Proof.Machine
end

