-- ==== Sys2Proof/Machine/Operands.lean ====
section
/-!
DEFINITION. The operands of the bus operations: register addresses (10_state.md R23), the selector of a CMD write
(30_encoding.md R74, R75) and the clear mask of a STATUS write (30_encoding.md R76).
-/

namespace Sys2Proof.Machine

/-- The host-visible registers (10_state.md R23). -/
inductive Reg
  | cmd | status | phase | rsvd
  deriving DecidableEq, Repr

/-- The address of a register (20_memory.md R51). -/
def regAddr : Reg → RegAddr
  | .cmd => 0
  | .status => 1
  | .phase => 2
  | .rsvd => 3

/-- A selector's place among the twelve tables, `sel − 1`, or none when `valid(sel) = (1 ≤ sel ≤ 12)` fails
(30_encoding.md R74, R75). -/
def tableIndex? (sel : Byte) : Option (Fin 12) :=
  if h : 1 ≤ sel.toNat ∧ sel.toNat ≤ 12 then some ⟨sel.toNat - 1, by omega⟩ else none

/-- The bits a STATUS write clears (30_encoding.md R76). -/
structure ClearMask where
  done : Bool
  errSel : Bool
  ovr : Bool
  deriving DecidableEq, Repr

/-- `D[1]` clears DONE, `D[2]` ERR_SEL, `D[3]` OVR; bits 0, 4 and 7:5 are ignored (30_encoding.md R76). -/
def clearMask (d : Byte) : ClearMask where
  done := d.getLsbD 1
  errSel := d.getLsbD 2
  ovr := d.getLsbD 3

end Sys2Proof.Machine
end

