-- ==== Sys2Proof/Machine/Flags.lean ====
section
/-!
DEFINITION. The derived bits, the read values of the registers and the writes to the three stored flags
(10_state.md R25 to R29, R35 to R37, R45).
-/

namespace Sys2Proof.Machine

/-- BUSY: a frame is in progress (10_state.md R26). -/
def busy (b : Block) : Bool := b.phase != .idle

/-- The output pin, 1 in MARK_HI only (10_state.md R36). -/
def irOut (b : Block) : Bool := b.phase == .markHi

/-- The 3-bit code of a phase (10_state.md R30). -/
def phaseCode : Phase → BitVec 3
  | .idle => 0
  | .markHi => 1
  | .markLo => 2
  | .space => 3
  | .guard => 4

/-- The value of STATUS: three zero bits, IR, OVR, ERR_SEL, DONE, BUSY (10_state.md R25). -/
def statusByte (b : Block) : Byte :=
  (0#3 ++ BitVec.ofBool (irOut b) ++ BitVec.ofBool b.ovr ++ BitVec.ofBool b.errSel ++ BitVec.ofBool b.done ++
    BitVec.ofBool (busy b) : BitVec (3 + 1 + 1 + 1 + 1 + 1))

/-- The value of PHASE: a zero bit, the phase code, idx (10_state.md R35). -/
def phaseByte (b : Block) : Byte :=
  (0#1 ++ phaseCode b.phase ++ BitVec.ofNat 4 b.idx.val : BitVec (1 + 3 + 4))

/-- `reg[a]`: what a read of a register returns (45_register_access.md R201). -/
def readReg (b : Block) : Reg → Byte
  | .cmd => b.selR
  | .status => statusByte b
  | .phase => phaseByte b
  | .rsvd => 0

/-- The guard ends in this tick, so the timing step sets DONE (45_register_access.md R207). -/
def guardEnds (b : Block) : Bool := b.phase == .guard && b.tmr == 1

/-- A STATUS write, judged on the tick's first state `b` and applied to `a`: each flag named by the mask is cleared,
but DONE keeps the 1 that the end of the guard gives it (45_register_access.md R207). -/
def clearFlags (b : Block) (m : ClearMask) (a : Block) : Block :=
  { a with
    done := a.done && !(m.done && !guardEnds b)
    errSel := a.errSel && !m.errSel
    ovr := a.ovr && !m.ovr }

/-- Taking an error event: its sticky bit is set and nothing else changes. There is no trap, no saved state and no
return (60_exceptions.md R220, R221, R223). -/
def raiseEvent : ErrorEvent → Block → Block
  | .invalidSelector _, a => { a with errSel := true }
  | .overrun _, a => { a with ovr := true }

/-- The number of the STATUS bit an event sets (60_exceptions.md R220). -/
def eventCode : ErrorEvent → Nat
  | .invalidSelector _ => 2
  | .overrun _ => 3

end Sys2Proof.Machine
end

