-- ==== Sys2Proof/Machine/PulseTable.lean ====
section
/-!
DEFINITION. The Pulse Table Repository (41_pulse_table.md): the twelve tables, the ROM that holds them
(20_memory.md R52, 30_encoding.md R78) and the lookup. A table is named by its place 0 to 11, the selector less one.
-/

namespace Sys2Proof.Machine

/-- The table of selector 3, channel A off (41_pulse_table.md R103). -/
def selector3Table : PulseTable :=
  #v[⟨180, 180⟩, ⟨30, 30⟩, ⟨30, 30⟩, ⟨30, 60⟩, ⟨30, 30⟩, ⟨30, 30⟩, ⟨30, 30⟩,
    ⟨30, 30⟩, ⟨30, 30⟩, ⟨30, 60⟩, ⟨30, 30⟩, ⟨30, 30⟩, ⟨30, 30⟩, ⟨120, 240⟩]

/-- PULSE_TABLE with selector 3 fixed (41_pulse_table.md R103, R104): the table of selector `n + 1`. -/
def pulseTable (p : Params) (n : Fin 12) : PulseTable :=
  if h : n.val < 2 then p.openTables[n.val]'(by omega)
  else if n.val = 2 then selector3Table
  else p.openTables[n.val - 1]'(by omega)

/-- The content of the ROM: 28 entries a table, pairs in order, mark before space (30_encoding.md R78). -/
def romEntry (p : Params) (a : Fin 336) : Entry :=
  let pair := (pulseTable p ⟨a.val / 28, by omega⟩)[a.val % 28 / 2]'(by omega)
  if a.val % 2 = 0 then pair.mark else pair.space

/-- `MemRead(a, 16)`, `a` in 0 to 335 (20_memory.md R52): no side effect, the same value every time. -/
def memRead (p : Params) (a : Fin 336) : Entry := romEntry p a

/-- The ROM address of the mark of pair `i` of selector `n + 1` (30_encoding.md R78). -/
def markAddr (n : Fin 12) (i : Fin 14) : Fin 336 := ⟨28 * n.val + 2 * i.val, by omega⟩

/-- The ROM address of the space of pair `i` of selector `n + 1` (30_encoding.md R78). -/
def spaceAddr (n : Fin 12) (i : Fin 14) : Fin 336 := ⟨28 * n.val + 2 * i.val + 1, by omega⟩

/-- `mark(sel, i)` of LOOKUP, in units of 10 µs (41_pulse_table.md R100). -/
def mark (p : Params) (n : Fin 12) (i : Fin 14) : Entry := memRead p (markAddr n i)

/-- `space(sel, i)` of LOOKUP, in units of 10 µs (41_pulse_table.md R100). -/
def space (p : Params) (n : Fin 12) (i : Fin 14) : Entry := memRead p (spaceAddr n i)

/-- The mark of pair `i` that the sequencer reads with `sel` in `sel_r`: the table's, and a free value where the selector
has no table, which no run meets (41_pulse_table.md R100, R107, log entry 8). -/
def markRead (p : Params) (sel : Byte) (i : Fin 14) : Entry :=
  match tableIndex? sel with
  | some n => mark p n i
  | none => (Config.strayPair sel.toNat i.val).mark

/-- The space of pair `i` that the sequencer reads with `sel` in `sel_r`, as for the mark (41_pulse_table.md R100, R107,
log entry 8). -/
def spaceRead (p : Params) (sel : Byte) (i : Fin 14) : Entry :=
  match tableIndex? sel with
  | some n => space p n i
  | none => (Config.strayPair sel.toNat i.val).space

/-- The pair indices 0 to 13, in the order they are sent (43_pulse_sequencer.md R141). -/
def pairIndices : List (Fin 14) := [0, 1, 2, 3, 4, 5, 6, 7, 8, 9, 10, 11, 12, 13]

/-- LOOKUP: the 14 pairs of a selector in order, none for a selector outside 1 to 12 (41_pulse_table.md R100, R107). -/
def lookup (p : Params) (sel : Byte) : Option (List Pair) :=
  (tableIndex? sel).map fun n => pairIndices.map fun i => ⟨mark p n i, space p n i⟩

/-- The channel and command of a selector by SEL_MAP; a name only (41_pulse_table.md R106). -/
def selectorName? (p : Params) (sel : Byte) : Option (Channel × Command) :=
  (tableIndex? sel).map fun n => p.selMap[n.val]

end Sys2Proof.Machine
end

