-- ==== Sys2Proof/Machine/Sequencer.lean ====
section
/-!
DEFINITION. The Carrier Modulator and the Pulse Sequencer at tick level (42_carrier_modulator.md R121, R122, R129,
43_pulse_sequencer.md R142 to R144): what it is to enter a half-cycle, a pair, a space, the next pair and the guard.
-/

namespace Sys2Proof.Machine

/-- HALF_T, the ticks of a carrier half-cycle (00_scope.md R7, 42_carrier_modulator.md R122, R125). -/
def halfTicks (p : Params) : Nat := 13 * p.ticksPerUs + p.compTicks

/-- The ticks of a space of value `s` (43_pulse_sequencer.md R142). -/
def spaceTicks (p : Params) (s : Entry) : Nat := 10 * s.toNat * p.ticksPerUs

/-- The ticks of the guard, GUARD_US = 30000 (43_pulse_sequencer.md R144). -/
def guardTicks (p : Params) : Nat := 30000 * p.ticksPerUs

/-- The counter a mark of value `m` starts with, in µs (42_carrier_modulator.md R121). -/
def markLoad (m : Entry) : Int := 10 * (m.toNat : Int)

/-- The high half of a carrier cycle begins (42_carrier_modulator.md R129). -/
def enterHigh (p : Params) (b : Block) : Block := { b with phase := .markHi, tmr := halfTicks p }

/-- The low half of a carrier cycle begins (42_carrier_modulator.md R129). -/
def enterLow (p : Params) (b : Block) : Block := { b with phase := .markLo, tmr := halfTicks p }

/-- A space of value `s` begins (43_pulse_sequencer.md R143). -/
def enterSilence (p : Params) (s : Entry) (b : Block) : Block := { b with phase := .space, tmr := spaceTicks p s }

/-- The guard begins; `idx` keeps its value (43_pulse_sequencer.md R143, R144). -/
def enterGuard (p : Params) (b : Block) : Block := { b with phase := .guard, tmr := guardTicks p }

/-- `enter_pair` over the pairs still to send: the first segment among them that is not empty begins, and the guard
begins when there is none (43_pulse_sequencer.md R143). Each pair looked at sets `idx` and loads `ctr`. -/
def enterPairs (p : Params) : List (Fin 14) → Block → Block
  | [], b => enterGuard p b
  | i :: rest, b =>
    let b := { b with idx := i, ctr := markLoad (markRead p b.selR i) }
    if b.ctr > 0 then enterHigh p b
    else if (spaceRead p b.selR i).toNat > 0 then enterSilence p (spaceRead p b.selR i) b
    else enterPairs p rest b

/-- `enter_pair(S, i)` (43_pulse_sequencer.md R143). -/
def enterPair (p : Params) (i : Fin 14) (b : Block) : Block := enterPairs p (pairIndices.drop i.val) b

/-- `enter_next(S, i)`: the next pair, or the guard after pair 13 (43_pulse_sequencer.md R143). -/
def enterNext (p : Params) (i : Fin 14) (b : Block) : Block := enterPairs p (pairIndices.drop (i.val + 1)) b

/-- `enter_space(S, i)` (43_pulse_sequencer.md R143). -/
def enterSpace (p : Params) (i : Fin 14) (b : Block) : Block :=
  if (spaceRead p b.selR i).toNat > 0 then enterSilence p (spaceRead p b.selR i) b else enterNext p i b

end Sys2Proof.Machine
end

