-- ==== Sys2Proof/Machine/Ops.lean ====
section
/-!
DEFINITION. The operations every instruction is made of: the timing step of a tick (44_transmission_engine.md R191,
R192), accepting a request (R161), one whole tick (R190) and the reset tick (70_reset_and_hazards.md R250).
-/

namespace Sys2Proof.Machine

/-- What a tick of the machine answers. -/
abbrev Answer := Host.Outcome State Fault Refusal

/-- `segment_end`: `a` is the state whose segment has just ended, its `tmr` already 0
(44_transmission_engine.md R192). -/
def segmentEnd (p : Params) (a : Block) : Block :=
  match a.phase with
  | .idle => a
  | .markHi => enterLow p a
  | .markLo =>
    let a := { a with ctr := a.ctr - 26 }
    if a.ctr > 0 then enterHigh p a else enterSpace p a.idx a
  | .space => enterNext p a.idx a
  | .guard => { a with phase := .idle, tmr := 0, done := true }

/-- `tmr` after one tick of a busy block: one less (44_transmission_engine.md R191). A busy block with `tmr` = 0, which no
run meets (10_state.md R41), is left with a free value (log entry 9). -/
def timerNext (b : Block) : Nat :=
  match b.tmr with
  | 0 => Config.timerBelowZero (phaseCode b.phase).toNat b.idx.val b.selR.toNat b.ctr
  | t + 1 => t

/-- `advance`: one tick of the running frame; IDLE does not change (44_transmission_engine.md R191). -/
def advance (p : Params) (b : Block) : Block :=
  if b.phase = .idle then b
  else
    let a := { b with tmr := timerNext b }
    if a.tmr = 0 then segmentEnd p a else a

/-- `accept(sel)` for the valid selector `d` (44_transmission_engine.md R161). -/
def accept (p : Params) (d : Byte) (a : Block) : Block := enterPair p 0 { a with selR := d, done := false }

/-- The tick is over: the block is in its next state, and the record says what the tick showed
(44_transmission_engine.md R194, 60_exceptions.md R235). -/
def State.observe (s : State) (read : Option Byte) (event : Option ErrorEvent) (next : Block) : State :=
  { s with block := next, history := ⟨irOut s.block, read, event⟩ :: s.history }

/-- One tick without reset: the timing step, then the bus operation's effect on its result; every state has a next one
(44_transmission_engine.md R190). -/
def tick (s : State) (read : Option Byte) (event : Option ErrorEvent) (effect : Block → Block) : Answer :=
  .next (s.observe read event (effect (advance s.params s.block)))

/-- A read of a register: the value is that of the tick's first state, and nothing else happens
(45_register_access.md R201, R210). -/
def readTick (s : State) (r : Reg) : Answer := tick s (some (readReg s.block r)) none id

/-- A write of `d` to CMD: Overrun while busy, else accept a valid selector, else InvalidSelector
(44_transmission_engine.md R160, R193). -/
def cmdTick (s : State) (d : Byte) : Answer :=
  if busy s.block then tick s none (some (.overrun d)) (raiseEvent (.overrun d))
  else
    match tableIndex? d with
    | some _ => tick s none none (accept s.params d)
    | none => tick s none (some (.invalidSelector d)) (raiseEvent (.invalidSelector d))

/-- A write of `d` to STATUS (45_register_access.md R207). -/
def statusTick (s : State) (d : Byte) : Answer := tick s none none (clearFlags s.block (clearMask d))

/-- The register an instruction reads, if it reads one (45_register_access.md R202 to R205). -/
def readOf : Instr → Option Reg
  | .rdCmd => some .cmd
  | .rdStatus => some .status
  | .rdPhase => some .phase
  | .rdRsvd => some .rsvd
  | .nop | .txAPlus | .txAMinus | .txAOff | .txBPlus | .txBMinus | .txBOff | .txCPlus | .txCMinus | .txCOff | .txDPlus
  | .txDMinus | .txDOff | .txInvalid0 | .txInvalid13 | .txInvalid14 | .txInvalid15 | .txInvalid16To31 _
  | .txInvalid32To63 _ | .txInvalid64To127 _ | .txInvalid128To255 _ | .wrStatus _ | .wrPhase _ | .wrRsvd _ => none

/-- A tick with `rst` = 1: the block is in its reset state next, whatever it was and whatever the operation is; a read
still returns the value of the tick's first state, and no event is raised (70_reset_and_hazards.md R250,
60_exceptions.md R225). -/
def resetTick (i : Instr) (s : State) : Answer :=
  .next (s.observe ((readOf i).map (readReg s.block)) none .reset)

end Sys2Proof.Machine
end

