-- ==== Sys2Proof/Machine/RegisterAccess.lean ====
section
/-!
DEFINITION. The meanings of the register access operations (45_register_access.md).
-/

namespace Sys2Proof.Machine

/-- NOP: the tick is the timing step alone (45_register_access.md R206). -/
def execNop (s : State) : Answer := tick s none none id

/-- RD_CMD (45_register_access.md R202). -/
def execRdCmd (s : State) : Answer := readTick s .cmd

/-- RD_STATUS (45_register_access.md R203). -/
def execRdStatus (s : State) : Answer := readTick s .status

/-- RD_PHASE (45_register_access.md R204). -/
def execRdPhase (s : State) : Answer := readTick s .phase

/-- RD_RSVD (45_register_access.md R205). -/
def execRdRsvd (s : State) : Answer := readTick s .rsvd

/-- WR_STATUS, write 1 to clear (45_register_access.md R207). -/
def execWrStatus (d : Byte) (s : State) : Answer := statusTick s d

/-- WR_PHASE: the write is ignored (45_register_access.md R208). -/
def execWrPhase (_d : Byte) (s : State) : Answer := tick s none none id

/-- WR_RSVD: the write is ignored (45_register_access.md R209). -/
def execWrRsvd (_d : Byte) (s : State) : Answer := tick s none none id

end Sys2Proof.Machine
end

