-- ==== Sys2Proof/Machine/Transmit.lean ====
section
/-!
DEFINITION. The meanings of the CMD writes, one per selector encoding (44_transmission_engine.md R160, R170 to R182).
The channel and command in a name are SEL_MAP's default (41_pulse_table.md R106, log entry 6).
-/

namespace Sys2Proof.Machine

/-- TX_A_PLUS: `WR CMD, 1` (44_transmission_engine.md R170). -/
def execTxAPlus (s : State) : Answer := cmdTick s 1

/-- TX_A_MINUS: `WR CMD, 2` (44_transmission_engine.md R171). -/
def execTxAMinus (s : State) : Answer := cmdTick s 2

/-- TX_A_OFF: `WR CMD, 3` (44_transmission_engine.md R172). -/
def execTxAOff (s : State) : Answer := cmdTick s 3

/-- TX_B_PLUS: `WR CMD, 4` (44_transmission_engine.md R173). -/
def execTxBPlus (s : State) : Answer := cmdTick s 4

/-- TX_B_MINUS: `WR CMD, 5` (44_transmission_engine.md R174). -/
def execTxBMinus (s : State) : Answer := cmdTick s 5

/-- TX_B_OFF: `WR CMD, 6` (44_transmission_engine.md R175). -/
def execTxBOff (s : State) : Answer := cmdTick s 6

/-- TX_C_PLUS: `WR CMD, 7` (44_transmission_engine.md R176). -/
def execTxCPlus (s : State) : Answer := cmdTick s 7

/-- TX_C_MINUS: `WR CMD, 8` (44_transmission_engine.md R177). -/
def execTxCMinus (s : State) : Answer := cmdTick s 8

/-- TX_C_OFF: `WR CMD, 9` (44_transmission_engine.md R178). -/
def execTxCOff (s : State) : Answer := cmdTick s 9

/-- TX_D_PLUS: `WR CMD, 10` (44_transmission_engine.md R179). -/
def execTxDPlus (s : State) : Answer := cmdTick s 10

/-- TX_D_MINUS: `WR CMD, 11` (44_transmission_engine.md R180). -/
def execTxDMinus (s : State) : Answer := cmdTick s 11

/-- TX_D_OFF: `WR CMD, 12` (44_transmission_engine.md R181). -/
def execTxDOff (s : State) : Answer := cmdTick s 12

/-- TX_INVALID with selector 0 (44_transmission_engine.md R182). -/
def execTxInvalid0 (s : State) : Answer := cmdTick s 0

/-- TX_INVALID with selector 13 (44_transmission_engine.md R182). -/
def execTxInvalid13 (s : State) : Answer := cmdTick s 13

/-- TX_INVALID with selector 14 (44_transmission_engine.md R182). -/
def execTxInvalid14 (s : State) : Answer := cmdTick s 14

/-- TX_INVALID with selector 15 (44_transmission_engine.md R182). -/
def execTxInvalid15 (s : State) : Answer := cmdTick s 15

/-- TX_INVALID with a selector 16 to 31 (44_transmission_engine.md R182). -/
def execTxInvalid16To31 (sel : Byte) (s : State) : Answer := cmdTick s sel

/-- TX_INVALID with a selector 32 to 63 (44_transmission_engine.md R182). -/
def execTxInvalid32To63 (sel : Byte) (s : State) : Answer := cmdTick s sel

/-- TX_INVALID with a selector 64 to 127 (44_transmission_engine.md R182). -/
def execTxInvalid64To127 (sel : Byte) (s : State) : Answer := cmdTick s sel

/-- TX_INVALID with a selector 128 to 255 (44_transmission_engine.md R182). -/
def execTxInvalid128To255 (sel : Byte) (s : State) : Answer := cmdTick s sel

end Sys2Proof.Machine
end

