-- ==== Sys2Proof/Machine/Dispatch.lean ====
section
/-!
DEFINITION. Every instruction of the opcode table to its meaning (30_encoding.md R79).
-/

namespace Sys2Proof.Machine

def exec (i : Instr) (s : State) : Host.Outcome State Fault Refusal :=
  match i with
  | .nop => Sys2Proof.Machine.execNop s
  | .rdCmd => Sys2Proof.Machine.execRdCmd s
  | .rdStatus => Sys2Proof.Machine.execRdStatus s
  | .rdPhase => Sys2Proof.Machine.execRdPhase s
  | .rdRsvd => Sys2Proof.Machine.execRdRsvd s
  | .txAPlus => Sys2Proof.Machine.execTxAPlus s
  | .txAMinus => Sys2Proof.Machine.execTxAMinus s
  | .txAOff => Sys2Proof.Machine.execTxAOff s
  | .txBPlus => Sys2Proof.Machine.execTxBPlus s
  | .txBMinus => Sys2Proof.Machine.execTxBMinus s
  | .txBOff => Sys2Proof.Machine.execTxBOff s
  | .txCPlus => Sys2Proof.Machine.execTxCPlus s
  | .txCMinus => Sys2Proof.Machine.execTxCMinus s
  | .txCOff => Sys2Proof.Machine.execTxCOff s
  | .txDPlus => Sys2Proof.Machine.execTxDPlus s
  | .txDMinus => Sys2Proof.Machine.execTxDMinus s
  | .txDOff => Sys2Proof.Machine.execTxDOff s
  | .txInvalid0 => Sys2Proof.Machine.execTxInvalid0 s
  | .txInvalid13 => Sys2Proof.Machine.execTxInvalid13 s
  | .txInvalid14 => Sys2Proof.Machine.execTxInvalid14 s
  | .txInvalid15 => Sys2Proof.Machine.execTxInvalid15 s
  | .txInvalid16To31 sel => Sys2Proof.Machine.execTxInvalid16To31 sel s
  | .txInvalid32To63 sel => Sys2Proof.Machine.execTxInvalid32To63 sel s
  | .txInvalid64To127 sel => Sys2Proof.Machine.execTxInvalid64To127 sel s
  | .txInvalid128To255 sel => Sys2Proof.Machine.execTxInvalid128To255 sel s
  | .wrStatus d => Sys2Proof.Machine.execWrStatus d s
  | .wrPhase d => Sys2Proof.Machine.execWrPhase d s
  | .wrRsvd d => Sys2Proof.Machine.execWrRsvd d s

end Sys2Proof.Machine
end

