-- ==== Sys2Proof/Machine/Fetch.lean ====
section
/-!
DEFINITION. Where a tick's operation comes from: the host's inputs (10_state.md R39). The block itself fetches no
instruction (20_memory.md R55, R63).
-/

namespace Sys2Proof.Machine

/-- What the host does in this tick: the soonest input listed, else no access (10_state.md R39). -/
def nextInput (s : State) : HostTick := s.inputs.headD .quiet

/-- The input of this tick is used up. -/
def State.consume (s : State) : State := { s with inputs := s.inputs.tail }

/-- The instruction the host's words of one tick stand for: NOP when there is none (10_state.md R39), and refused when
there are two or one is too wide (93_implementation_defined.md I7). -/
def fetch (h : HostTick) : Except Refusal Instr :=
  match h.words with
  | [] => .ok .nop
  | [w] =>
    match decode w with
    | .ok i => .ok i
    | .error .wideWord => .error .wideWord
  | _ :: _ :: _ => .error .twoOperations

/-- The word `w` alone is driven in the tick that comes next, without reset; later ticks stay as they are. -/
def State.driveNext (s : State) (w : Nat) : State := { s with inputs := ⟨false, [w]⟩ :: s.inputs.tail }

/-- The bus words `ws`, one a tick, then the inputs the state had: a host running a program of 95_test_vectors.md. -/
def State.drive (s : State) (ws : List BusWord) : State :=
  { s with inputs := ws.map (fun w => ⟨false, [w.toNat]⟩) ++ s.inputs }

end Sys2Proof.Machine
end

