-- ==== Sys2Proof/Machine/Step.lean ====
section
/-!
DEFINITION. The step of the machine: one tick, `Step(S, op, rst)` of 44_transmission_engine.md R190, with the host's
`op` and `rst` of this tick taken from the state.
-/

namespace Sys2Proof.Machine

/-- One tick (44_transmission_engine.md R190): the host's input of this tick is used up; its word is decoded, and refused
by name when it is none; reset overrides the operation, else the operation is executed. -/
def step (s : State) : Host.Outcome State Fault Refusal :=
  match fetch (nextInput s) with
  | .error r => .refused r
  | .ok i => if (nextInput s).rst then resetTick i s.consume else exec i s.consume

/-- `s` with the word `w` driven on the bus, without reset, in the tick that comes next. -/
def State.withFetchWord (s : State) (_nbits w : Nat) : State := s.driveNext w

end Sys2Proof.Machine
end

