-- ==== Sys2Proof/Machine/Assembler.lean ====
section
/-!
DEFINITION. The assembly language of the spec (30_encoding.md R83, R84): lines, their bus words, labels, and the reading
of a line of text. It is notation for what a host does; no step reads it.
-/

namespace Sys2Proof.Machine

/-- One operation of the assembly language (30_encoding.md R83, R84). -/
inductive AsmOp
  | nop
  | rd (r : Reg)
  | wr (r : Reg) (imm : Byte)
  /-- `TX sel`, the source's `transmit(sel)`. -/
  | tx (sel : Byte)
  /-- `TX A+`, ..., `TX D0`: the selector SEL_MAP gives the name. -/
  | txName (ch : Channel) (cmd : Command)
  | clr (mask : Byte)
  | clrAll
  | wait (n : Nat)
  deriving DecidableEq, Repr

/-- A line, with the label that may stand before it (30_encoding.md R83). -/
structure AsmLine where
  label : Option (List Char)
  op : AsmOp
  deriving DecidableEq, Repr

/-- The word of `RD r` (30_encoding.md R83). -/
def readWord (r : Reg) : BusWord := busWord false (regAddr r) 0

/-- The word of `WR r, imm` (30_encoding.md R83). -/
def writeWord (r : Reg) (imm : Byte) : BusWord := busWord true (regAddr r) imm

/-- The selector SEL_MAP gives a channel and command (41_pulse_table.md R106). -/
def selectorOf? (p : Params) (ch : Channel) (cmd : Command) : Option Byte :=
  (p.selMap.toList.findIdx? fun e => e == (ch, cmd)).map fun k => BitVec.ofNat 8 (k + 1)

/-- The words of one operation, one per tick (30_encoding.md R83, R84); none if SEL_MAP lacks the name. -/
def assembleOp (p : Params) : AsmOp → Option (List BusWord)
  | .nop => some [0x000]
  | .rd r => some [readWord r]
  | .wr r imm => some [writeWord r imm]
  | .tx sel => some [writeWord .cmd sel]
  | .txName ch cmd => (selectorOf? p ch cmd).map fun sel => [writeWord .cmd sel]
  | .clr mask => some [writeWord .status mask]
  | .clrAll => some [writeWord .status 0x0E]
  | .wait n => some (List.replicate n 0x000)

/-- The words of a program, line after line (30_encoding.md R83: one line is one tick's operation, R84: `WAIT n` is n
of them). -/
def assemble (p : Params) : List AsmLine → Option (List BusWord)
  | [] => some []
  | l :: rest =>
    match assembleOp p l.op, assemble p rest with
    | some ws, some more => some (ws ++ more)
    | _, _ => none

/-- The tick each label names, counted from `at0` (30_encoding.md R83). -/
def labelTicks (p : Params) : (at0 : Nat) → List AsmLine → List (List Char × Nat)
  | _, [] => []
  | at0, l :: rest =>
    let more := labelTicks p (at0 + ((assembleOp p l.op).getD []).length) rest
    match l.label with
    | some name => (name, at0) :: more
    | none => more

/-- The pieces of a line: runs of other characters, and each comma and colon alone; blanks separate (log entry 18).
`part` is the run read so far, last character first. -/
def pieces : (part : List Char) → List Char → List (List Char)
  | part, [] => if part.isEmpty then [] else [part.reverse]
  | part, c :: rest =>
    if c = ' ' ∨ c = '\t' then (if part.isEmpty then [] else [part.reverse]) ++ pieces [] rest
    else if c = ',' ∨ c = ':' then (if part.isEmpty then [] else [part.reverse]) ++ [c] :: pieces [] rest
    else pieces (c :: part) rest

/-- The value of a digit below `base`. -/
def digit? (base : Nat) (c : Char) : Option Nat :=
  let n := c.toNat
  let v :=
    if 48 ≤ n ∧ n ≤ 57 then n - 48
    else if 65 ≤ n ∧ n ≤ 70 then n - 55
    else if 97 ≤ n ∧ n ≤ 102 then n - 87
    else 16
  if v < base then some v else none

/-- The value of a run of digits, after the value `acc` of those before it. -/
def digits? (base : Nat) : (acc : Nat) → List Char → Option Nat
  | acc, [] => some acc
  | acc, c :: rest =>
    match digit? base c with
    | some v => digits? base (base * acc + v) rest
    | none => none

/-- A number in decimal, `0x` hex or `0b` binary (30_encoding.md R83). -/
def number? : List Char → Option Nat
  | '0' :: 'x' :: c :: rest => digits? 16 0 (c :: rest)
  | '0' :: 'b' :: c :: rest => digits? 2 0 (c :: rest)
  | c :: rest => digits? 10 0 (c :: rest)
  | [] => none

/-- `imm8`, a number 0 to 255 (30_encoding.md R83). -/
def imm8? (cs : List Char) : Option Byte :=
  match number? cs with
  | some n => if n < 256 then some (BitVec.ofNat 8 n) else none
  | none => none

/-- A register's name (10_state.md R23). -/
def reg? : List Char → Option Reg
  | ['C', 'M', 'D'] => some .cmd
  | ['S', 'T', 'A', 'T', 'U', 'S'] => some .status
  | ['P', 'H', 'A', 'S', 'E'] => some .phase
  | ['R', 'S', 'V', 'D'] => some .rsvd
  | _ => none

/-- A channel's letter (30_encoding.md R84). -/
def channel? (c : Char) : Option Channel :=
  if c = 'A' then some .a else if c = 'B' then some .b else if c = 'C' then some .c else if c = 'D' then some .d
  else none

/-- A command's sign: `+` plus, `-` minus, `0` off (30_encoding.md R84). -/
def command? (c : Char) : Option Command :=
  if c = '+' then some .plus else if c = '-' then some .minus else if c = '0' then some .off else none

/-- The operand of `TX`: a name or a selector (30_encoding.md R84). -/
def txOp? (arg : List Char) : Option AsmOp :=
  match arg with
  | [c, g] =>
    match channel? c, command? g with
    | some ch, some cmd => some (.txName ch cmd)
    | _, _ => (imm8? arg).map .tx
  | _ => (imm8? arg).map .tx

/-- The operation of a line's pieces (30_encoding.md R83, R84). -/
def asmOp? : List (List Char) → Option AsmOp
  | [['N', 'O', 'P']] => some .nop
  | [['C', 'L', 'R', 'A', 'L', 'L']] => some .clrAll
  | [['R', 'D'], r] => (reg? r).map .rd
  | [['W', 'R'], r, [','], v] =>
    match reg? r, imm8? v with
    | some r, some d => some (.wr r d)
    | _, _ => none
  | [['T', 'X'], arg] => txOp? arg
  | [['C', 'L', 'R'], v] => (imm8? v).map .clr
  | [['W', 'A', 'I', 'T'], v] => (number? v).map .wait
  | _ => none

/-- A line of text, its label first (30_encoding.md R83). -/
def parseLine (text : List Char) : Option AsmLine :=
  match pieces [] text with
  | name :: [':'] :: rest => (asmOp? rest).map fun op => ⟨some name, op⟩
  | rest => (asmOp? rest).map fun op => ⟨none, op⟩

end Sys2Proof.Machine
end

