-- ==== Sys2Proof/Machine/Waveform.lean ====
section
/-!
DEFINITION. The waveforms the spec gives as whole lists of segments (00_scope.md R13): a mark, a space, the guard, the
run of a table and the frame (42_carrier_modulator.md R123, 43_pulse_sequencer.md R142 to R147). They are written from
those rules, apart from the tick steps that are to produce them.
-/

namespace Sys2Proof.Machine

/-- A level held for a number of ticks (00_scope.md R13). -/
structure Segment where
  level : Bool
  ticks : Nat
  deriving DecidableEq, Repr

/-- A list of segments, in order of time (00_scope.md R13). -/
abbrev Waveform := List Segment

/-- The output levels of a waveform, one per tick (00_scope.md R13). -/
def expand (w : Waveform) : List Bool := w.flatMap fun g => List.replicate g.ticks g.level

/-- The number of ticks of a waveform (00_scope.md R13). -/
def dur (w : Waveform) : Nat := (w.map Segment.ticks).sum

/-- One carrier cycle, high first (42_carrier_modulator.md R122). -/
def carrierCycle (p : Params) : Waveform := [⟨true, halfTicks p⟩, ⟨false, halfTicks p⟩]

/-- The loop of 42_carrier_modulator.md R123, at most `fuel` times: a whole cycle and 26 off the counter while the
counter is above zero. -/
def markLoop (p : Params) : (fuel : Nat) → (c : Int) → Waveform
  | 0, _ => []
  | fuel + 1, c => if c > 0 then carrierCycle p ++ markLoop p fuel (c - 26) else []

/-- `markWave(m)` (42_carrier_modulator.md R123). `m` cycles of 26 µs outlast `10 × m` µs, so the loop ends by its own
condition. -/
def markWave (p : Params) (m : Entry) : Waveform := markLoop p m.toNat (markLoad m)

/-- `N(m)`, the carrier cycles of a mark of value `m` (42_carrier_modulator.md R124). -/
def cycleCount (m : Entry) : Nat := (10 * m.toNat + 25) / 26

/-- `spaceWave(s)` (43_pulse_sequencer.md R142). -/
def spaceWave (p : Params) (s : Entry) : Waveform := if s.toNat > 0 then [⟨false, spaceTicks p s⟩] else []

/-- `guardWave` (43_pulse_sequencer.md R144). -/
def guardWave (p : Params) : Waveform := [⟨false, guardTicks p⟩]

/-- The mark and the space of pair `i` of selector `n + 1` (43_pulse_sequencer.md R140, R141). -/
def pairWave (p : Params) (n : Fin 12) (i : Fin 14) : Waveform :=
  markWave p (mark p n i) ++ spaceWave p (space p n i)

/-- `seqWave(sel)` of selector `n + 1` (43_pulse_sequencer.md R145). -/
def seqWave (p : Params) (n : Fin 12) : Waveform := pairIndices.flatMap (pairWave p n)

/-- `frame(sel)` of selector `n + 1` (43_pulse_sequencer.md R146). -/
def frame (p : Params) (n : Fin 12) : Waveform := seqWave p n ++ guardWave p

/-- `T(sel)` of selector `n + 1` by the sum of 43_pulse_sequencer.md R147. -/
def frameTicks (p : Params) (n : Fin 12) : Nat :=
  (pairIndices.map fun i => 2 * halfTicks p * cycleCount (mark p n i) + spaceTicks p (space p n i)).sum + guardTicks p

end Sys2Proof.Machine
end

