-- ==== Sys2Proof/Safety.lean ====
section
/-!
DEFINITION. What counts as a good state, a good host and a good run, in the terms the statements use.
-/

namespace Sys2Proof.Machine

/-- What holds in every state of a block reachable from reset (10_state.md R41, with the ranges of R32 and R33). -/
structure Block.Inv (p : Params) (b : Block) : Prop where
  /-- `phase = IDLE` exactly when `tmr = 0`. -/
  idle_iff : b.phase = .idle ↔ b.tmr = 0
  /-- `sel_r` is 0 or in 1 to 12. -/
  sel_le : b.selR.toNat ≤ 12
  /-- A frame in progress has a valid selector. -/
  busy_sel : b.phase ≠ .idle → 1 ≤ b.selR.toNat
  /-- The guard stands after pair 13. -/
  guard_idx : b.phase = .guard → b.idx = 13
  /-- In a mark the counter is above zero and the timer within a half-cycle. -/
  mark_range : b.phase = .markHi ∨ b.phase = .markLo → 0 < b.ctr ∧ b.tmr ≤ halfTicks p
  /-- In a space the timer is within the space of the pair being sent. -/
  space_range : b.phase = .space → ∀ n, tableIndex? b.selR = some n → b.tmr ≤ spaceTicks p (space p n b.idx)
  /-- In the guard the timer is within the guard. -/
  guard_range : b.phase = .guard → b.tmr ≤ guardTicks p
  /-- The counter stays in −25 to 655350. -/
  ctr_range : -25 ≤ b.ctr ∧ b.ctr ≤ 655350

/-- The invariant of the machine: parameters as 00_scope.md R7 asks and a block as 10_state.md R41 says. -/
structure State.Inv (s : State) : Prop where
  params : s.params.Wf
  block : s.block.Inv s.params

/-- A tick of a host within the spec: at most one word, of 12 bits (70_reset_and_hazards.md R264). -/
abbrev HostTick.Legal (h : HostTick) : Prop := h.words.length ≤ 1 ∧ ∀ w ∈ h.words, w < 4096

/-- In the next `k` ticks the host stays within the spec and does not reset the block. -/
abbrev State.Undisturbed (k : Nat) (s : State) : Prop := ∀ h ∈ s.inputs.take k, h.Legal ∧ h.rst = false

/-- The host's operation in this tick is a CMD write of `sel`, without reset. -/
abbrev State.Requests (s : State) (sel : Byte) : Prop :=
  (nextInput s).rst = false ∧ ∃ i, fetch (nextInput s) = .ok i ∧ i.selector? = some sel

/-- No error event was recorded in the ticks so far (60_exceptions.md R235). -/
abbrev State.NoEvents (s : State) : Prop := ∀ r ∈ s.history, r.event = none

/-- The transitions of `phase` within a frame and into and out of one (44_transmission_engine.md R167), reset apart. -/
def phaseMove : Phase → Phase → Bool
  | .idle, .markHi | .idle, .space | .idle, .guard => true
  | .markHi, .markLo => true
  | .markLo, .markHi | .markLo, .space | .markLo, .guard => true
  | .space, .markHi | .space, .space | .space, .guard => true
  | .guard, .idle => true
  | _, _ => false

end Sys2Proof.Machine
end

