-- ==== Sys2Proof/Certificates/Slice0/Obligations.lean ====
section
/-!
DEFINITION. The statements for the provers, from the numbered rules of spec/. In a statement about one instruction the
whole next state is written out, so that what it leaves unchanged is said with it.
-/

open Sys2Proof Sys2Proof.Machine

/-! ## Reset -/

/-- 10_state.md R42: the reset values, the values derived from them, and the ROM, which reset does not change. -/
def Obligations.ResetStateHoldsTheListedValues : Prop :=
  State.reset.block = Block.reset ∧
    Block.reset.phase = .idle ∧ Block.reset.idx = 0 ∧ Block.reset.selR.toNat = 0 ∧ Block.reset.ctr = 0 ∧
    Block.reset.tmr = 0 ∧ Block.reset.done = false ∧ Block.reset.errSel = false ∧ Block.reset.ovr = false ∧
    irOut Block.reset = false ∧ readReg Block.reset .status = 0x00 ∧ readReg Block.reset .phase = 0x00 ∧
    readReg Block.reset .cmd = 0x00 ∧
    ∀ s t : State, (nextInput s).rst = true → step s = .next t →
      t.block = Block.reset ∧ ∀ a, memRead t.params a = memRead s.params a

/-- 70_reset_and_hazards.md R250: with `rst` = 1 the next state of the block is its reset state, whatever the state and
the operation are; the operation has no effect and a read still returns `reg[a]` of the tick's first state. -/
def Obligations.ResetTickGivesResetStateAndOldReadValue : Prop :=
  ∀ (s : State) (i : Instr), (nextInput s).rst = true → fetch (nextInput s) = .ok i →
    ∃ v, step s = .next
        { block := ⟨.idle, 0, 0, 0, 0, false, false, false⟩
          params := s.params
          inputs := s.inputs.tail
          history := ⟨s.block.phase == .markHi, v, none⟩ :: s.history } ∧
      (i = .rdCmd → v = some s.block.selR) ∧
      (i = .rdStatus → v = some (readReg s.block .status)) ∧
      (i = .rdPhase → v = some (readReg s.block .phase)) ∧
      (i = .rdRsvd → v = some 0x00) ∧
      (i ∉ [Instr.rdCmd, .rdStatus, .rdPhase, .rdRsvd] → v = none)

/-- The state after reset satisfies the invariant of 10_state.md R41, which the spec marks as derived; the parameters
are the model's defaults (log entry 5). -/
def Obligations.ResetStateSatisfiesInvariant : Prop := State.reset.Inv

/-! ## Encoding -/

/-- Every well-formed instruction is decoded from the word it is encoded to. -/
def Obligations.DecodeOfEncodeIsTheInstruction : Prop :=
  ∀ i : Instr, i.WellFormed →
    decode (encode i).toNat = .ok i ∧ ∀ k, decodeTableWord k (encode i).toNat = some i

/-- 30_encoding.md R79: every 12-bit word matches exactly one row of the table, and the decoder reads that row's
instruction, a well-formed one. -/
def Obligations.EveryWordMatchesExactlyItsDecodedRow : Prop :=
  ∀ w : BusWord, opcodeRows.filter (fun r => r.accepts w) = [opcodeRow (decodeWord w)] ∧ (decodeWord w).WellFormed

/-- 30_encoding.md R72, R73: the ranges of the read words and of the write words, and the canonical read words. -/
def Obligations.ReadAndWriteWordsCoverTheirRanges : Prop :=
  (∀ w : BusWord,
    (0x800 ≤ w.toNat ∧ w.toNat ≤ 0x8FF → decodeWord w = .rdCmd) ∧
    (0x900 ≤ w.toNat ∧ w.toNat ≤ 0x9FF → decodeWord w = .rdStatus) ∧
    (0xA00 ≤ w.toNat ∧ w.toNat ≤ 0xAFF → decodeWord w = .rdPhase) ∧
    (0xB00 ≤ w.toNat ∧ w.toNat ≤ 0xBFF → decodeWord w = .rdRsvd) ∧
    (0xC00 ≤ w.toNat ∧ w.toNat ≤ 0xCFF → (decodeWord w).selector? = some (BitVec.ofNat 8 (w.toNat - 0xC00))) ∧
    (0xD00 ≤ w.toNat ∧ w.toNat ≤ 0xDFF → decodeWord w = .wrStatus (BitVec.ofNat 8 (w.toNat - 0xD00))) ∧
    (0xE00 ≤ w.toNat ∧ w.toNat ≤ 0xEFF → decodeWord w = .wrPhase (BitVec.ofNat 8 (w.toNat - 0xE00))) ∧
    (0xF00 ≤ w.toNat ∧ w.toNat ≤ 0xFFF → decodeWord w = .wrRsvd (BitVec.ofNat 8 (w.toNat - 0xF00)))) ∧
  encode .rdCmd = 0x800 ∧ encode .rdStatus = 0x900 ∧ encode .rdPhase = 0xA00 ∧ encode .rdRsvd = 0xB00

/-- 30_encoding.md R75: the valid selectors are 1 to 12, the ones of the TX rows; 0 and 13 to 255 are the InvalidSelector
encodings. -/
def Obligations.ValidSelectorsAreThoseOfTheTxRows : Prop :=
  ∀ d : Byte,
    ((∃ n, tableIndex? d = some n) ↔ 1 ≤ d.toNat ∧ d.toNat ≤ 12) ∧
    (1 ≤ d.toNat ∧ d.toNat ≤ 12 ↔
      decodeTx d ∈ [Instr.txAPlus, .txAMinus, .txAOff, .txBPlus, .txBMinus, .txBOff, .txCPlus, .txCMinus, .txCOff,
        .txDPlus, .txDMinus, .txDOff]) ∧
    (d.toNat = 0 ∨ (13 ≤ d.toNat ∧ d.toNat ≤ 255) ↔
      decodeTx d ∈ [Instr.txInvalid0, .txInvalid13, .txInvalid14, .txInvalid15, .txInvalid16To31 d,
        .txInvalid32To63 d, .txInvalid64To127 d, .txInvalid128To255 d])

/-- A few words written out from 30_encoding.md R79's patterns decode to the instructions they stand for. -/
def Obligations.SampleWordsDecode : Prop :=
  decode 0b011111111111 = .ok .nop ∧ decode 0b100000000000 = .ok .rdCmd ∧ decode 0b100101010101 = .ok .rdStatus ∧
    decode 0b110000000011 = .ok .txAOff ∧ decode 0b110000001100 = .ok .txDOff ∧
    decode 0b110000001101 = .ok .txInvalid13 ∧ decode 0b110000010000 = .ok (.txInvalid16To31 16) ∧
    decode 0b110011111111 = .ok (.txInvalid128To255 255) ∧ decode 0b110100001110 = .ok (.wrStatus 0x0E) ∧
    decode 0b111101010101 = .ok (.wrRsvd 0x55)

/-- 93_implementation_defined.md I7: a bus word wider than 12 bits is outside the spec; the decoder names it and gives no
instruction (log entry 10, the model's choice of how to refuse). -/
def Obligations.WideWordsAreRejectedByName : Prop :=
  ∀ w : Nat, 4096 ≤ w → decode w = .error .wideWord ∧ ∀ k, decodeTableWord k w = none

/-! ## The step -/

/-- A step runs the instruction of the host's word, and NOP when there is none; around it the step only uses up the
host's input of this tick. That an empty list of inputs is a tick of NOP without reset is the model's choice
(log entry 1). -/
def Obligations.StepRunsTheDecodedInstruction : Prop :=
  (∀ (s : State) (w : BusWord), nextInput s = ⟨false, [w.toNat]⟩ →
    (decodeWord w).WellFormed ∧ step s = exec (decodeWord w) { s with inputs := s.inputs.tail }) ∧
  (∀ s : State, nextInput s = ⟨false, []⟩ → step s = exec .nop { s with inputs := s.inputs.tail }) ∧
  (∀ s : State, s.inputs = [] → step s = exec .nop s)

/-- The word placed by withFetchWord is the one the next step runs, with nothing else of the machine changed (the model's
own placing, log entry 2). -/
def Obligations.PlacedWordIsTheNextOneRun : Prop :=
  ∀ (s : State) (k w : Nat) (i : Instr), decodeTableWord k w = some i →
    step (s.withFetchWord k w) = exec i { s with inputs := s.inputs.tail } ∧
      (s.withFetchWord k w).block = s.block ∧ (s.withFetchWord k w).params = s.params ∧
      (s.withFetchWord k w).history = s.history

/-- 93_implementation_defined.md I7: a step refuses exactly the ticks in which the host drives two words or a wide one,
under a name for each (log entry 10, the model's choice of how to refuse), and does so when `rst` = 1 too (log entry 11,
the model's choice). -/
def Obligations.StepRefusesExactlyIllegalTicks : Prop :=
  ∀ s : State,
    ((∃ r, step s = .refused r) ↔ ¬ (nextInput s).Legal) ∧
    (2 ≤ (nextInput s).words.length → step s = .refused .twoOperations) ∧
    (∀ w, (nextInput s).words = [w] → 4096 ≤ w → step s = .refused .wideWord)

/-- 44_transmission_engine.md R190 reads "every state and every 12-bit word has exactly one next state": from every state,
reachable or not, a step with a host within the spec answers a next state. -/
def Obligations.StepIsTotalForALegalHost : Prop :=
  ∀ s : State, (nextInput s).Legal → ∃ t, step s = .next t

/-- Every bus operation answers a next state in every state: none traps, none waits. -/
def Obligations.EveryOperationAnswersANextState : Prop :=
  ∀ (i : Instr) (s : State), ∃ t, exec i s = .next t

/-! ## The timing step -/

/-- 44_transmission_engine.md R191: IDLE does not change; otherwise `tmr` falls by one and the segment ends in the tick
that brings it to 0; a segment entered with `tmr` = `n` lasts exactly `n` ticks. -/
def Obligations.AdvanceCountsTheSegmentDown : Prop :=
  ∀ (p : Params) (b : Block),
    (b.phase = .idle → advance p b = b) ∧
    (b.phase ≠ .idle → 2 ≤ b.tmr → advance p b = { b with tmr := b.tmr - 1 }) ∧
    (b.phase ≠ .idle → b.tmr = 1 → advance p b = segmentEnd p { b with tmr := 0 }) ∧
    (b.phase ≠ .idle → ∀ n, b.tmr = n + 1 →
      (∀ k, k ≤ n → (advance p)^[k] b = { b with tmr := n + 1 - k }) ∧
      (advance p)^[n + 1] b = segmentEnd p { b with tmr := 0 })

/-- 44_transmission_engine.md R192: what follows the end of each kind of segment. -/
def Obligations.EndOfASegmentEntersTheNext : Prop :=
  ∀ (p : Params) (b : Block), b.tmr = 1 →
    (b.phase = .markHi →
      advance p b = { b with phase := .markLo, tmr := 13 * p.ticksPerUs + p.compTicks }) ∧
    (b.phase = .markLo → 0 < b.ctr - 26 →
      advance p b = { b with phase := .markHi, ctr := b.ctr - 26, tmr := 13 * p.ticksPerUs + p.compTicks }) ∧
    (b.phase = .markLo → b.ctr - 26 ≤ 0 →
      advance p b = enterSpace p b.idx { b with ctr := b.ctr - 26, tmr := 0 }) ∧
    (b.phase = .space → advance p b = enterNext p b.idx { b with tmr := 0 }) ∧
    (b.phase = .guard → advance p b = { b with phase := .idle, tmr := 0, done := true })

/-- The three procedures of 43_pulse_sequencer.md section 1 for entering a pair, a space and the next pair, as the
section writes them: empty segments take no tick, and the guard follows pair 13. The marks and spaces are those of the
table of `sel_r`; for a `sel_r` that has no table they are the model's free values (log entry 8). -/
def Obligations.EnteringFollowsTheThreeProcedures : Prop :=
  ∀ (p : Params) (i : Fin 14) (b : Block),
    enterPair p i b =
      (if 0 < (markRead p b.selR i).toNat then
        { b with
          idx := i, ctr := 10 * ((markRead p b.selR i).toNat : Int), phase := .markHi
          tmr := 13 * p.ticksPerUs + p.compTicks }
      else enterSpace p i { b with idx := i, ctr := 0 }) ∧
    enterSpace p i b =
      (if 0 < (spaceRead p b.selR i).toNat then
        { b with phase := .space, tmr := 10 * (spaceRead p b.selR i).toNat * p.ticksPerUs }
      else enterNext p i b) ∧
    (∀ h : i.val < 13, enterNext p i b = enterPair p ⟨i.val + 1, by omega⟩ b) ∧
    (i.val = 13 → enterNext p i b = { b with phase := .guard, tmr := 30000 * p.ticksPerUs }) ∧
    (∀ n : Fin 12, b.selR.toNat = n.val + 1 →
      markRead p b.selR i = (pulseTable p n)[i].mark ∧ spaceRead p b.selR i = (pulseTable p n)[i].space)

/-! ## Register access -/

/-- 45_register_access.md R206, R208, R209 (and the bus step of 44_transmission_engine.md R193): NOP, WR_PHASE and
WR_RSVD are the timing step alone. The record added to the history is the model's own (log entry 7). -/
def Obligations.NopAndIgnoredWritesOnlyAdvance : Prop :=
  ∀ (s : State) (d : Byte), ∀ i ∈ [Instr.nop, .wrPhase d, .wrRsvd d],
    exec i s = .next
      { s with
        block := advance s.params s.block
        history := ⟨s.block.phase == .markHi, none, none⟩ :: s.history }

/-- 45_register_access.md R201: the value each read returns, bit by bit, computed from the state at the start of the
tick; the read writes nothing, so the next state is that of the timing step. -/
def Obligations.ReadsReturnTheRegisterAndOnlyAdvance : Prop :=
  ∀ s : State, ∀ r ∈ [(Instr.rdCmd, s.block.selR.toNat),
      (Instr.rdStatus, 16 * (s.block.phase == .markHi).toNat + 8 * s.block.ovr.toNat + 4 * s.block.errSel.toNat +
        2 * s.block.done.toNat + (s.block.phase != .idle).toNat),
      (Instr.rdPhase, 16 * (match s.block.phase with
        | .idle => 0 | .markHi => 1 | .markLo => 2 | .space => 3 | .guard => 4) + s.block.idx.val),
      (Instr.rdRsvd, 0)],
    ∃ v : Byte, v.toNat = r.2 ∧
      exec r.1 s = .next
        { s with
          block := advance s.params s.block
          history := ⟨s.block.phase == .markHi, some v, none⟩ :: s.history }

/-- 45_register_access.md R207: a STATUS write clears the flags its mask names, but DONE stays 1 when the guard ends in
the same tick; it changes nothing else. -/
def Obligations.StatusWriteClearsTheNamedFlags : Prop :=
  (∀ d : Byte, decodeWord (0xD00#12 ||| d.zeroExtend 12) = .wrStatus d) ∧
  ∀ (s : State) (d : Byte) (a : Block), a = advance s.params s.block →
    exec (.wrStatus d) s = .next
      { s with
        block :=
          { a with
            done := if d.getLsbD 1 = true ∧ ¬ (s.block.phase = .guard ∧ s.block.tmr = 1) then false else a.done
            errSel := if d.getLsbD 2 = true then false else a.errSel
            ovr := if d.getLsbD 3 = true then false else a.ovr }
        history := ⟨s.block.phase == .markHi, none, none⟩ :: s.history } ∧
    (s.block.phase = .guard → s.block.tmr = 1 → a.done = true)

/-! ## Transmit requests -/

/-- 44_transmission_engine.md R161: from IDLE each of the twelve valid CMD writes is accepted: `sel_r` is written, DONE
cleared, the first pair entered, ERR_SEL and OVR kept; the block is busy from the next tick. -/
def Obligations.ValidRequestFromIdleIsAccepted : Prop :=
  ∀ r ∈ ([(.txAPlus, 1), (.txAMinus, 2), (.txAOff, 3), (.txBPlus, 4), (.txBMinus, 5), (.txBOff, 6), (.txCPlus, 7),
      (.txCMinus, 8), (.txCOff, 9), (.txDPlus, 10), (.txDMinus, 11), (.txDOff, 12)] : List (Instr × Nat)),
    ∀ s : State, s.block.phase = .idle →
      ∃ b : Block, b = enterPair s.params 0 { s.block with selR := BitVec.ofNat 8 r.2, done := false } ∧
        exec r.1 s = .next { s with block := b, history := ⟨false, none, none⟩ :: s.history } ∧
        b.selR.toNat = r.2 ∧ b.done = false ∧ b.errSel = s.block.errSel ∧ b.ovr = s.block.ovr ∧ b.phase ≠ .idle

/-- 44_transmission_engine.md R162, 60_exceptions.md R221: from IDLE an out-of-range selector sets ERR_SEL and changes
nothing else of the block. -/
def Obligations.InvalidRequestFromIdleSetsOnlyErrSel : Prop :=
  ∀ (sel : Byte), ∀ i ∈ [Instr.txInvalid0, .txInvalid13, .txInvalid14, .txInvalid15, .txInvalid16To31 sel,
      .txInvalid32To63 sel, .txInvalid64To127 sel, .txInvalid128To255 sel], i.WellFormed →
    ∃ d : Byte, i.selector? = some d ∧ (d.toNat = 0 ∨ 13 ≤ d.toNat) ∧
      ∀ s : State, s.block.phase = .idle →
        exec i s = .next
          { s with
            block := { s.block with errSel := true }
            history := ⟨false, none, some (.invalidSelector d)⟩ :: s.history }

/-- 44_transmission_engine.md R163, 60_exceptions.md R223: a CMD write of any selector, valid or not, during a frame sets
OVR and changes nothing else of the tick. -/
def Obligations.RequestDuringAFrameSetsOnlyOvr : Prop :=
  ∀ (i : Instr) (sel : Byte) (s : State), i.selector? = some sel → s.block.phase ≠ .idle →
    exec i s = .next
      { s with
        block := { advance s.params s.block with ovr := true }
        history := ⟨s.block.phase == .markHi, none, some (.overrun sel)⟩ :: s.history } ∧
    exec .nop s = .next
      { s with
        block := advance s.params s.block
        history := ⟨s.block.phase == .markHi, none, none⟩ :: s.history }

/-- Selector 3's frame starts with the source's lead-in mark of 180 units: the counter holds 1800 and the first half-cycle
runs (44_transmission_engine.md section 2, 41_pulse_table.md section 3), for every choice of the parameters. -/
def Obligations.SelectorThreeStartsItsLeadInMark : Prop :=
  ∀ s : State, s.block.phase = .idle →
    exec .txAOff s = .next
      { s with
        block :=
          { phase := .markHi, idx := 0, selR := 3, ctr := 1800, tmr := 13 * s.params.ticksPerUs + s.params.compTicks
            done := false, errSel := s.block.errSel, ovr := s.block.ovr }
        history := ⟨false, none, none⟩ :: s.history }

/-- An error event changes only its own STATUS bit (60_exceptions.md section 1, "Precision", which the spec marks as
derived): the block is what NOP would have made it but for that bit. -/
def Obligations.ErrorEventChangesOnlyItsOwnBit : Prop :=
  ∀ (i : Instr) (s t : State), exec i s = .next t →
    ∃ (r : TickRecord) (u : State), t.history = r :: s.history ∧ exec .nop s = .next u ∧
      (∀ sel, r.event = some (.invalidSelector sel) → t.block = { u.block with errSel := true }) ∧
      (∀ sel, r.event = some (.overrun sel) → t.block = { u.block with ovr := true })

/-- 42_carrier_modulator.md R130: no bus operation changes the timing of a mark, or of any segment of a frame: the
sequencer's state after the tick is the one NOP would have left. -/
def Obligations.NoOperationDisturbsARunningFrame : Prop :=
  ∀ (i : Instr) (s t u : State), s.block.phase ≠ .idle → exec i s = .next t → exec .nop s = .next u →
    t.block.phase = u.block.phase ∧ t.block.idx = u.block.idx ∧ t.block.selR = u.block.selR ∧
      t.block.ctr = u.block.ctr ∧ t.block.tmr = u.block.tmr

/-! ## The flags and the selector over a step -/

/-- 10_state.md R28: what sets, keeps and clears ERR_SEL over one step. -/
def Obligations.ErrSelIsStickyAndSetByInvalidSelectorOnly : Prop :=
  ∀ (s t : State) (i : Instr), fetch (nextInput s) = .ok i → step s = .next t →
    (t.block.errSel = true ↔
      (nextInput s).rst = false ∧
        ((s.block.phase = .idle ∧ ∃ sel, i.selector? = some sel ∧ (sel.toNat = 0 ∨ 13 ≤ sel.toNat)) ∨
          (s.block.errSel = true ∧ ¬ ∃ d, i = .wrStatus d ∧ d.getLsbD 2 = true)))

/-- 10_state.md R29: what sets, keeps and clears OVR over one step. -/
def Obligations.OvrIsStickyAndSetByOverrunOnly : Prop :=
  ∀ (s t : State) (i : Instr), fetch (nextInput s) = .ok i → step s = .next t →
    (t.block.ovr = true ↔
      (nextInput s).rst = false ∧
        ((s.block.phase ≠ .idle ∧ ∃ sel, i.selector? = some sel) ∨
          (s.block.ovr = true ∧ ¬ ∃ d, i = .wrStatus d ∧ d.getLsbD 3 = true)))

/-- 10_state.md R27: what sets, keeps and clears DONE over one step; the end of the guard wins over a clear. The
invariant leaves out the guard with `tmr` = 0, which no run meets. -/
def Obligations.DoneIsSetByTheEndOfTheGuard : Prop :=
  ∀ (s t : State) (i : Instr), s.Inv → fetch (nextInput s) = .ok i → step s = .next t →
    (t.block.done = true ↔
      (nextInput s).rst = false ∧
        ((s.block.phase = .guard ∧ s.block.tmr = 1) ∨
          (s.block.done = true ∧
            ¬ (s.block.phase = .idle ∧ ∃ sel, i.selector? = some sel ∧ 1 ≤ sel.toNat ∧ sel.toNat ≤ 12) ∧
            ¬ ∃ d, i = .wrStatus d ∧ d.getLsbD 1 = true)))

/-- `sel_r` is written only by an accept, and by reset (10_state.md section 3). -/
def Obligations.SelectorRegisterIsWrittenOnlyByAnAccept : Prop :=
  ∀ (s t : State) (i : Instr), fetch (nextInput s) = .ok i → step s = .next t →
    ((nextInput s).rst = true → t.block.selR = 0) ∧
    ((nextInput s).rst = false →
      (∀ sel, s.block.phase = .idle → i.selector? = some sel → 1 ≤ sel.toNat → sel.toNat ≤ 12 → t.block.selR = sel) ∧
      (¬ (s.block.phase = .idle ∧ ∃ sel, i.selector? = some sel ∧ 1 ≤ sel.toNat ∧ sel.toNat ≤ 12) →
        t.block.selR = s.block.selR))

/-- 20_memory.md R53: no step changes the ROM, nor any other parameter the block was built with. -/
def Obligations.NoStepChangesTheRom : Prop :=
  ∀ s t : State, step s = .next t → (∀ a, memRead t.params a = memRead s.params a) ∧ t.params = s.params

/-- Each tick records the pin, the value of a read, and exactly the error event it raised; nothing clears a record
(44_transmission_engine.md section 3, 60_exceptions.md section 4; the record is the model's own, log entry 7). -/
def Obligations.EveryTickRecordsPinReadAndEvent : Prop :=
  ∀ (s t : State) (i : Instr), fetch (nextInput s) = .ok i → step s = .next t →
    ∃ r : TickRecord, t.history = r :: s.history ∧
      (r.pin = true ↔ s.block.phase = .markHi) ∧
      r.read = (readOf i).map (readReg s.block) ∧
      (∀ sel, r.event = some (.overrun sel) ↔
        (nextInput s).rst = false ∧ s.block.phase ≠ .idle ∧ i.selector? = some sel) ∧
      (∀ sel, r.event = some (.invalidSelector sel) ↔
        (nextInput s).rst = false ∧ s.block.phase = .idle ∧ i.selector? = some sel ∧
          (sel.toNat = 0 ∨ 13 ≤ sel.toNat))

/-! ## Invariants -/

/-- Every step keeps the invariant of 10_state.md section 5 (which the spec marks as derived). -/
def Obligations.StepKeepsTheInvariant : Prop :=
  ∀ s t : State, s.Inv → step s = .next t → t.Inv

/-- The state machine is linear (44_transmission_engine.md section 1, marked there as derived): without reset, the phase
stays or takes one of the listed transitions, and within a frame `idx` never decreases. -/
def Obligations.PhaseTakesOnlyTheListedTransitions : Prop :=
  ∀ (i : Instr) (s t : State), exec i s = .next t →
    (t.block.phase = s.block.phase ∧ t.block.idx = s.block.idx) ∨
    (phaseMove s.block.phase t.block.phase = true ∧
      (s.block.phase ≠ .idle → s.block.idx ≤ t.block.idx) ∧
      (s.block.phase = .markHi → t.block.idx = s.block.idx) ∧
      (s.block.phase = .space → t.block.phase ≠ .guard → s.block.idx < t.block.idx))

/-! ## The pulse tables -/

/-- 30_encoding.md R78: where the ROM holds the mark and the space of each pair of each selector. -/
def Obligations.RomHoldsTheTablesAtTheirAddresses : Prop :=
  (∀ (p : Params) (n : Fin 12) (i : Fin 14),
    memRead p ⟨28 * n.val + 2 * i.val, by omega⟩ = (pulseTable p n)[i].mark ∧
    memRead p ⟨28 * n.val + 2 * i.val + 1, by omega⟩ = (pulseTable p n)[i].space ∧
    (markAddr n i).val = 28 * n.val + 2 * i.val ∧ (spaceAddr n i).val = (markAddr n i).val + 1) ∧
  (markAddr 0 0).val = 0 ∧ (markAddr 11 0).val = 308 ∧ (spaceAddr 11 13).val = 335

/-- The lookup of a selector returns its own table, all 14 pairs in order, and no table for a selector outside 1 to 12
(41_pulse_table.md sections 1 and 3). -/
def Obligations.LookupReturnsTheSelectorsOwnTable : Prop :=
  ∀ (p : Params) (sel : Byte),
    (∀ n : Fin 12, sel.toNat = n.val + 1 →
      lookup p sel = some (pulseTable p n).toList ∧
      (n.val < 2 → ∀ h : n.val < 11, pulseTable p n = p.openTables[n.val]) ∧
      (2 < n.val → ∀ h : n.val - 1 < 11, pulseTable p n = p.openTables[n.val - 1])) ∧
    (sel.toNat = 0 ∨ 13 ≤ sel.toNat → lookup p sel = none)

/-- 41_pulse_table.md R103: the 14 pairs of selector 3 and the ROM addresses of their marks, for every choice of the open
parameters. -/
def Obligations.SelectorThreeHasTheSourcesTable : Prop :=
  (∀ p : Params, lookup p 3 = some
    [⟨180, 180⟩, ⟨30, 30⟩, ⟨30, 30⟩, ⟨30, 60⟩, ⟨30, 30⟩, ⟨30, 30⟩, ⟨30, 30⟩, ⟨30, 30⟩, ⟨30, 30⟩, ⟨30, 60⟩, ⟨30, 30⟩,
      ⟨30, 30⟩, ⟨30, 30⟩, ⟨120, 240⟩]) ∧
  (pairIndices.map fun i => (markAddr 2 i).val) = [56, 58, 60, 62, 64, 66, 68, 70, 72, 74, 76, 78, 80, 82]

/-- The default SEL_MAP is channel-major, `sel = 3 × ch + cmd + 1` (41_pulse_table.md section 3; the map is a parameter
with this default, log entry 6). -/
def Obligations.DefaultSelectorMapIsChannelMajor : Prop :=
  ∀ c ∈ [(Channel.a, 0), (.b, 1), (.c, 2), (.d, 3)], ∀ m ∈ [(Command.plus, 0), (.minus, 1), (.off, 2)],
    selectorOf? Params.default c.1 m.1 = some (BitVec.ofNat 8 (3 * c.2 + m.2 + 1)) ∧
      selectorName? Params.default (BitVec.ofNat 8 (3 * c.2 + m.2 + 1)) = some (c.1, m.1)

/-- SEL_MAP names each selector once and each name has a selector (00_scope.md section 3, "bijection"), and selector 3 is
channel A, off. -/
def Obligations.SelectorMapIsABijection : Prop :=
  ∀ p : Params, p.Wf →
    (∀ (sel : Byte) (ch : Channel) (cmd : Command),
      selectorName? p sel = some (ch, cmd) ↔ selectorOf? p ch cmd = some sel) ∧
    (∀ (ch : Channel) (cmd : Command), ∃ sel : Byte, 1 ≤ sel.toNat ∧ sel.toNat ≤ 12 ∧ selectorOf? p ch cmd = some sel) ∧
    selectorName? p 3 = some (.a, .off)

/-- The block's behaviour never depends on SEL_MAP's names (41_pulse_table.md section 3). -/
def Obligations.SelectorNamesDoNotChangeAnyStep : Prop :=
  ∀ (s t : State) (m : Vector (Channel × Command) 12), step s = .next t →
    step { s with params := { s.params with selMap := m } } = .next { t with params := { t.params with selMap := m } }

/-! ## Waveforms -/

/-- A mark of value `m` is `N(m)` whole carrier cycles, high half first, each half of HALF_T ticks
(42_carrier_modulator.md section 1; the count is marked there as derived); a mark of 0 is empty. -/
def Obligations.MarkIsItsCountOfWholeCycles : Prop :=
  ∀ (p : Params) (m : Entry),
    markWave p m =
      (List.replicate ((10 * m.toNat + 25) / 26)
        [Segment.mk true (13 * p.ticksPerUs + p.compTicks), Segment.mk false (13 * p.ticksPerUs + p.compTicks)]).flatten ∧
    dur (markWave p m) = 2 * (13 * p.ticksPerUs + p.compTicks) * ((10 * m.toNat + 25) / 26)

/-- The frame of a selector lasts T(sel) ticks, the sum over its table and the guard (43_pulse_sequencer.md section 2,
marked there as derived), and at least the guard. -/
def Obligations.FrameLastsTheSumOfItsSegments : Prop :=
  ∀ (p : Params) (n : Fin 12),
    (expand (frame p n)).length = dur (frame p n) ∧
    dur (frame p n) =
      (pairIndices.map fun i =>
        2 * (13 * p.ticksPerUs + p.compTicks) * ((10 * (pulseTable p n)[i].mark.toNat + 25) / 26) +
          10 * (pulseTable p n)[i].space.toNat * p.ticksPerUs).sum + 30000 * p.ticksPerUs ∧
    dur (frame p n) = frameTicks p n ∧ 30000 * p.ticksPerUs ≤ frameTicks p n

/-- The worked example of selector 3 (43_pulse_sequencer.md section 2, marked there as derived): 15186 ticks of pulses
and a frame of 45186, at one tick a µs and without compensation. -/
def Obligations.SelectorThreeFrameLasts45186Ticks : Prop :=
  ∀ p : Params, p.ticksPerUs = 1 → p.compTicks = 0 → dur (seqWave p 2) = 15186 ∧ frameTicks p 2 = 45186

/-- The waveform of an accepted transmission (44_transmission_engine.md section 1, marked there as derived): for every
table and all parameters, whatever the bus operations of those ticks are, the pin shows the frame of the selector, from
the tick after the accept. -/
def Obligations.AcceptedTransmissionShowsItsFrame : Prop :=
  ∀ (s : State) (sel : Byte) (n : Fin 12), s.params.Wf → s.block.phase = .idle → s.Requests sel →
    tableIndex? sel = some n → s.Undisturbed (frameTicks s.params n + 1) →
    ∀ j, 1 ≤ j → j ≤ frameTicks s.params n →
      ∃ t : State, Host.Core.run core j s = .next t ∧
        (expand (frame s.params n))[j - 1]? = some (irOut t.block)

/-- BUSY during a frame (44_transmission_engine.md section 1, marked there as derived): 1 for exactly the T(sel) ticks
after the accept, with the accepted selector, and 0 in the tick after them. -/
def Obligations.BusyForExactlyTheFrame : Prop :=
  ∀ (s : State) (sel : Byte) (n : Fin 12), s.params.Wf → s.block.phase = .idle → s.Requests sel →
    tableIndex? sel = some n → s.Undisturbed (frameTicks s.params n + 1) →
    busy s.block = false ∧
    (∀ j, 1 ≤ j → j ≤ frameTicks s.params n →
      ∃ t : State, Host.Core.run core j s = .next t ∧ busy t.block = true ∧ t.block.selR = sel) ∧
    ∃ t : State, Host.Core.run core (frameTicks s.params n + 1) s = .next t ∧ busy t.block = false

/-- Completion (44_transmission_engine.md section 1, marked there as derived): T(sel) + 1 ticks after the tick of the
accept began, the block is IDLE with DONE set, whatever the host wrote in the meantime. -/
def Obligations.FrameEndsIdleWithDone : Prop :=
  ∀ (s : State) (sel : Byte) (n : Fin 12), s.params.Wf → s.block.phase = .idle → s.Requests sel →
    tableIndex? sel = some n → s.Undisturbed (frameTicks s.params n + 1) →
    ∃ t : State, Host.Core.run core (frameTicks s.params n + 1) s = .next t ∧
      t.block.phase = .idle ∧ t.block.done = true ∧ t.block.idx = 13 ∧ t.block.selR = sel ∧ irOut t.block = false

/-- Every frame in progress ends by itself (44_transmission_engine.md section 1, "No cancellation"): from any busy state
of the invariant, a host that stays within the spec and does not reset sees IDLE with DONE within a bound that depends
on the parameters alone. The bound is the model's own. -/
def Obligations.EveryRunningFrameEnds : Prop :=
  ∀ s : State, s.Inv → s.block.phase ≠ .idle → (∀ h ∈ s.inputs, h.Legal ∧ h.rst = false) →
    ∃ (k : Nat) (t : State),
      k ≤ 15 * (2 * halfTicks s.params * 25206 + 655350 * s.params.ticksPerUs) + guardTicks s.params ∧
      Host.Core.run core k s = .next t ∧ t.block.phase = .idle ∧ t.block.done = true ∧ t.block.selR = s.block.selR

/-- A frame's start keeps nothing of what was sent before (43_pulse_sequencer.md section 2, marked there as derived):
whatever the two idle states are, accepting the same selector with the same parameters leaves blocks that differ at most
in ERR_SEL and OVR. -/
def Obligations.FrameStartForgetsEarlierFrames : Prop :=
  ∀ (i : Instr) (sel : Byte) (n : Fin 12) (s s' t t' : State), i.selector? = some sel → tableIndex? sel = some n →
    s.params = s'.params → s.block.phase = .idle → s'.block.phase = .idle →
    exec i s = .next t → exec i s' = .next t' →
    t'.block = { t.block with errSel := s'.block.errSel, ovr := s'.block.ovr }

/-! ## The assembly language -/

/-- The words of NOP, RD and WR lines (30_encoding.md section 5), and that they decode to the reads and writes of their
register: a CMD write of `d` to the CMD row with selector `d`. -/
def Obligations.AssemblyLinesHaveTheirWords : Prop :=
  ∀ (p : Params) (d : Byte),
    assembleOp p .nop = some [0x000] ∧
    assembleOp p (.rd .cmd) = some [0x800] ∧ assembleOp p (.rd .status) = some [0x900] ∧
    assembleOp p (.rd .phase) = some [0xA00] ∧ assembleOp p (.rd .rsvd) = some [0xB00] ∧
    assembleOp p (.wr .cmd d) = some [0xC00 ||| d.zeroExtend 12] ∧
    assembleOp p (.wr .status d) = some [0xD00 ||| d.zeroExtend 12] ∧
    assembleOp p (.wr .phase d) = some [0xE00 ||| d.zeroExtend 12] ∧
    assembleOp p (.wr .rsvd d) = some [0xF00 ||| d.zeroExtend 12] ∧
    [0x000, 0x800, 0x900, 0xA00, 0xB00].map decodeWord = [.nop, .rdCmd, .rdStatus, .rdPhase, .rdRsvd] ∧
    (decodeWord (0xC00#12 ||| d.zeroExtend 12)).selector? = some d ∧
    decodeWord (0xD00#12 ||| d.zeroExtend 12) = .wrStatus d ∧
    decodeWord (0xE00#12 ||| d.zeroExtend 12) = .wrPhase d ∧
    decodeWord (0xF00#12 ||| d.zeroExtend 12) = .wrRsvd d

/-- 30_encoding.md R84: the expansions of the pseudo-instructions, and the signs of the commands. -/
def Obligations.PseudoInstructionsExpand : Prop :=
  ∀ (p : Params) (d : Byte) (n : Nat),
    assembleOp p (.tx d) = assembleOp p (.wr .cmd d) ∧
    (∀ ch cmd sel, selectorOf? p ch cmd = some sel → assembleOp p (.txName ch cmd) = assembleOp p (.wr .cmd sel)) ∧
    assembleOp p (.clr d) = assembleOp p (.wr .status d) ∧
    assembleOp p .clrAll = assembleOp p (.wr .status 0x0E) ∧
    assembleOp p (.wait n) = some (List.replicate n 0x000) ∧
    command? '+' = some .plus ∧ command? '-' = some .minus ∧ command? '0' = some .off
end

