-- ==== Sys2Proof/Laws/State.lean ====
section
/-!
SUPPORT. One lemma per field for each named update of a block and of the machine, all true by definition, so that no
proof unfolds a record update.
-/

namespace Sys2Proof.Machine

/-! ### `enterHigh` -/

@[simp] theorem enterHigh_phase (p : Params) (b : Block) : (enterHigh p b).phase = .markHi := rfl
@[simp] theorem enterHigh_idx (p : Params) (b : Block) : (enterHigh p b).idx = b.idx := rfl
@[simp] theorem enterHigh_selR (p : Params) (b : Block) : (enterHigh p b).selR = b.selR := rfl
@[simp] theorem enterHigh_ctr (p : Params) (b : Block) : (enterHigh p b).ctr = b.ctr := rfl
@[simp] theorem enterHigh_tmr (p : Params) (b : Block) : (enterHigh p b).tmr = halfTicks p := rfl
@[simp] theorem enterHigh_done (p : Params) (b : Block) : (enterHigh p b).done = b.done := rfl
@[simp] theorem enterHigh_errSel (p : Params) (b : Block) : (enterHigh p b).errSel = b.errSel := rfl
@[simp] theorem enterHigh_ovr (p : Params) (b : Block) : (enterHigh p b).ovr = b.ovr := rfl

/-! ### `enterLow` -/

@[simp] theorem enterLow_phase (p : Params) (b : Block) : (enterLow p b).phase = .markLo := rfl
@[simp] theorem enterLow_idx (p : Params) (b : Block) : (enterLow p b).idx = b.idx := rfl
@[simp] theorem enterLow_selR (p : Params) (b : Block) : (enterLow p b).selR = b.selR := rfl
@[simp] theorem enterLow_ctr (p : Params) (b : Block) : (enterLow p b).ctr = b.ctr := rfl
@[simp] theorem enterLow_tmr (p : Params) (b : Block) : (enterLow p b).tmr = halfTicks p := rfl
@[simp] theorem enterLow_done (p : Params) (b : Block) : (enterLow p b).done = b.done := rfl
@[simp] theorem enterLow_errSel (p : Params) (b : Block) : (enterLow p b).errSel = b.errSel := rfl
@[simp] theorem enterLow_ovr (p : Params) (b : Block) : (enterLow p b).ovr = b.ovr := rfl

/-! ### `enterSilence` -/

@[simp] theorem enterSilence_phase (p : Params) (v : Entry) (b : Block) : (enterSilence p v b).phase = .space := rfl
@[simp] theorem enterSilence_idx (p : Params) (v : Entry) (b : Block) : (enterSilence p v b).idx = b.idx := rfl
@[simp] theorem enterSilence_selR (p : Params) (v : Entry) (b : Block) : (enterSilence p v b).selR = b.selR := rfl
@[simp] theorem enterSilence_ctr (p : Params) (v : Entry) (b : Block) : (enterSilence p v b).ctr = b.ctr := rfl
@[simp] theorem enterSilence_tmr (p : Params) (v : Entry) (b : Block) : (enterSilence p v b).tmr = spaceTicks p v := rfl
@[simp] theorem enterSilence_done (p : Params) (v : Entry) (b : Block) : (enterSilence p v b).done = b.done := rfl
@[simp] theorem enterSilence_errSel (p : Params) (v : Entry) (b : Block) : (enterSilence p v b).errSel = b.errSel := rfl
@[simp] theorem enterSilence_ovr (p : Params) (v : Entry) (b : Block) : (enterSilence p v b).ovr = b.ovr := rfl

/-! ### `enterGuard` -/

@[simp] theorem enterGuard_phase (p : Params) (b : Block) : (enterGuard p b).phase = .guard := rfl
@[simp] theorem enterGuard_idx (p : Params) (b : Block) : (enterGuard p b).idx = b.idx := rfl
@[simp] theorem enterGuard_selR (p : Params) (b : Block) : (enterGuard p b).selR = b.selR := rfl
@[simp] theorem enterGuard_ctr (p : Params) (b : Block) : (enterGuard p b).ctr = b.ctr := rfl
@[simp] theorem enterGuard_tmr (p : Params) (b : Block) : (enterGuard p b).tmr = guardTicks p := rfl
@[simp] theorem enterGuard_done (p : Params) (b : Block) : (enterGuard p b).done = b.done := rfl
@[simp] theorem enterGuard_errSel (p : Params) (b : Block) : (enterGuard p b).errSel = b.errSel := rfl
@[simp] theorem enterGuard_ovr (p : Params) (b : Block) : (enterGuard p b).ovr = b.ovr := rfl

/-! ### `raiseInvalid` -/

@[simp] theorem raiseInvalid_phase (sel : Byte) (b : Block) : (raiseEvent (.invalidSelector sel) b).phase = b.phase := rfl
@[simp] theorem raiseInvalid_idx (sel : Byte) (b : Block) : (raiseEvent (.invalidSelector sel) b).idx = b.idx := rfl
@[simp] theorem raiseInvalid_selR (sel : Byte) (b : Block) : (raiseEvent (.invalidSelector sel) b).selR = b.selR := rfl
@[simp] theorem raiseInvalid_ctr (sel : Byte) (b : Block) : (raiseEvent (.invalidSelector sel) b).ctr = b.ctr := rfl
@[simp] theorem raiseInvalid_tmr (sel : Byte) (b : Block) : (raiseEvent (.invalidSelector sel) b).tmr = b.tmr := rfl
@[simp] theorem raiseInvalid_done (sel : Byte) (b : Block) : (raiseEvent (.invalidSelector sel) b).done = b.done := rfl
@[simp] theorem raiseInvalid_errSel (sel : Byte) (b : Block) : (raiseEvent (.invalidSelector sel) b).errSel = true := rfl
@[simp] theorem raiseInvalid_ovr (sel : Byte) (b : Block) : (raiseEvent (.invalidSelector sel) b).ovr = b.ovr := rfl

/-! ### `raiseOverrun` -/

@[simp] theorem raiseOverrun_phase (sel : Byte) (b : Block) : (raiseEvent (.overrun sel) b).phase = b.phase := rfl
@[simp] theorem raiseOverrun_idx (sel : Byte) (b : Block) : (raiseEvent (.overrun sel) b).idx = b.idx := rfl
@[simp] theorem raiseOverrun_selR (sel : Byte) (b : Block) : (raiseEvent (.overrun sel) b).selR = b.selR := rfl
@[simp] theorem raiseOverrun_ctr (sel : Byte) (b : Block) : (raiseEvent (.overrun sel) b).ctr = b.ctr := rfl
@[simp] theorem raiseOverrun_tmr (sel : Byte) (b : Block) : (raiseEvent (.overrun sel) b).tmr = b.tmr := rfl
@[simp] theorem raiseOverrun_done (sel : Byte) (b : Block) : (raiseEvent (.overrun sel) b).done = b.done := rfl
@[simp] theorem raiseOverrun_errSel (sel : Byte) (b : Block) : (raiseEvent (.overrun sel) b).errSel = b.errSel := rfl
@[simp] theorem raiseOverrun_ovr (sel : Byte) (b : Block) : (raiseEvent (.overrun sel) b).ovr = true := rfl

/-! ### `clearFlags` -/

@[simp] theorem clearFlags_phase (c : Block) (m : ClearMask) (b : Block) : (clearFlags c m b).phase = b.phase := rfl
@[simp] theorem clearFlags_idx (c : Block) (m : ClearMask) (b : Block) : (clearFlags c m b).idx = b.idx := rfl
@[simp] theorem clearFlags_selR (c : Block) (m : ClearMask) (b : Block) : (clearFlags c m b).selR = b.selR := rfl
@[simp] theorem clearFlags_ctr (c : Block) (m : ClearMask) (b : Block) : (clearFlags c m b).ctr = b.ctr := rfl
@[simp] theorem clearFlags_tmr (c : Block) (m : ClearMask) (b : Block) : (clearFlags c m b).tmr = b.tmr := rfl
@[simp] theorem clearFlags_done (c : Block) (m : ClearMask) (b : Block) : (clearFlags c m b).done = (b.done && !(m.done && !guardEnds c)) := rfl
@[simp] theorem clearFlags_errSel (c : Block) (m : ClearMask) (b : Block) : (clearFlags c m b).errSel = (b.errSel && !m.errSel) := rfl
@[simp] theorem clearFlags_ovr (c : Block) (m : ClearMask) (b : Block) : (clearFlags c m b).ovr = (b.ovr && !m.ovr) := rfl

/-! ### `State.observe`, `State.consume`, `State.driveNext`, `State.drive`, `State.withFetchWord` -/

@[simp] theorem observe_block (s : State) (r : Option Byte) (e : Option ErrorEvent) (b : Block) : (s.observe r e b).block = b := rfl
@[simp] theorem observe_params (s : State) (r : Option Byte) (e : Option ErrorEvent) (b : Block) : (s.observe r e b).params = s.params := rfl
@[simp] theorem observe_inputs (s : State) (r : Option Byte) (e : Option ErrorEvent) (b : Block) : (s.observe r e b).inputs = s.inputs := rfl
@[simp] theorem observe_history (s : State) (r : Option Byte) (e : Option ErrorEvent) (b : Block) : (s.observe r e b).history = ⟨irOut s.block, r, e⟩ :: s.history := rfl

@[simp] theorem consume_block (s : State) : (s.consume).block = s.block := rfl
@[simp] theorem consume_params (s : State) : (s.consume).params = s.params := rfl
@[simp] theorem consume_inputs (s : State) : (s.consume).inputs = s.inputs.tail := rfl
@[simp] theorem consume_history (s : State) : (s.consume).history = s.history := rfl

@[simp] theorem driveNext_block (s : State) (w : Nat) : (s.driveNext w).block = s.block := rfl
@[simp] theorem driveNext_params (s : State) (w : Nat) : (s.driveNext w).params = s.params := rfl
@[simp] theorem driveNext_inputs (s : State) (w : Nat) : (s.driveNext w).inputs = ⟨false, [w]⟩ :: s.inputs.tail := rfl
@[simp] theorem driveNext_history (s : State) (w : Nat) : (s.driveNext w).history = s.history := rfl

@[simp] theorem drive_block (s : State) (ws : List BusWord) : (s.drive ws).block = s.block := rfl
@[simp] theorem drive_params (s : State) (ws : List BusWord) : (s.drive ws).params = s.params := rfl
@[simp] theorem drive_inputs (s : State) (ws : List BusWord) : (s.drive ws).inputs = ws.map (fun w => ⟨false, [w.toNat]⟩) ++ s.inputs := rfl
@[simp] theorem drive_history (s : State) (ws : List BusWord) : (s.drive ws).history = s.history := rfl

@[simp] theorem withFetchWord_block (s : State) (k w : Nat) : (s.withFetchWord k w).block = s.block := rfl
@[simp] theorem withFetchWord_params (s : State) (k w : Nat) : (s.withFetchWord k w).params = s.params := rfl
@[simp] theorem withFetchWord_inputs (s : State) (k w : Nat) : (s.withFetchWord k w).inputs = ⟨false, [w]⟩ :: s.inputs.tail := rfl
@[simp] theorem withFetchWord_history (s : State) (k w : Nat) : (s.withFetchWord k w).history = s.history := rfl

/-! ### `State.reset` -/

@[simp] theorem reset_block : State.reset.block = .reset := rfl
@[simp] theorem reset_params : State.reset.params = .default := rfl
@[simp] theorem reset_inputs : State.reset.inputs = [] := rfl
@[simp] theorem reset_history : State.reset.history = [] := rfl
@[simp] theorem blockReset_phase : Block.reset.phase = .idle := rfl
@[simp] theorem blockReset_idx : Block.reset.idx = 0 := rfl
@[simp] theorem blockReset_selR : Block.reset.selR = 0 := rfl
@[simp] theorem blockReset_ctr : Block.reset.ctr = 0 := rfl
@[simp] theorem blockReset_tmr : Block.reset.tmr = 0 := rfl
@[simp] theorem blockReset_done : Block.reset.done = false := rfl
@[simp] theorem blockReset_errSel : Block.reset.errSel = false := rfl
@[simp] theorem blockReset_ovr : Block.reset.ovr = false := rfl

end Sys2Proof.Machine
end

