-- ==== Sys2Proof/Laws/Ops.lean ====
section
/-!
SUPPORT. For each shared operation, one lemma that says all it can do; later proofs cite these instead of unfolding.
-/

namespace Sys2Proof.Machine

/-! ### Operands and flags -/

/-- A selector has the table `n` exactly when it is `n + 1`. -/
theorem tableIndex?_eq_some {sel : Byte} {n : Fin 12} : tableIndex? sel = some n ↔ sel.toNat = n.val + 1 := by
  unfold tableIndex?
  split
  · simp only [Option.some.injEq, Fin.ext_iff]; omega
  · simp only [reduceCtorEq, false_iff]; omega

/-- A selector has no table exactly when it is 0 or above 12. -/
theorem tableIndex?_eq_none {sel : Byte} : tableIndex? sel = none ↔ sel.toNat = 0 ∨ 12 < sel.toNat := by
  unfold tableIndex?
  split
  · simp only [reduceCtorEq, false_iff]; omega
  · simp only [true_iff]; omega

theorem busy_iff {b : Block} : busy b = true ↔ b.phase ≠ .idle := by simp [busy]

theorem not_busy_iff {b : Block} : busy b = false ↔ b.phase = .idle := by simp [busy]

theorem irOut_iff {b : Block} : irOut b = true ↔ b.phase = .markHi := by simp [irOut]

theorem guardEnds_iff {b : Block} : guardEnds b = true ↔ b.phase = .guard ∧ b.tmr = 1 := by simp [guardEnds]

theorem not_guardEnds_of_idle {b : Block} (h : b.phase = .idle) : guardEnds b = false := by simp [guardEnds, h]

/-! ### What the sequencer reads -/

/-- With a selector that has a table, the sequencer reads that table's marks. -/
theorem markRead_of_table {p : Params} {sel : Byte} {n : Fin 12} (h : tableIndex? sel = some n) (i : Fin 14) :
    markRead p sel i = mark p n i := by simp [markRead, h]

/-- With a selector that has a table, the sequencer reads that table's spaces. -/
theorem spaceRead_of_table {p : Params} {sel : Byte} {n : Fin 12} (h : tableIndex? sel = some n) (i : Fin 14) :
    spaceRead p sel i = space p n i := by simp [spaceRead, h]

/-! ### Entering a segment -/

/-- Over the pairs still to send, the first segment that is not empty begins, at a pair of the list, or else the guard
begins with the counter and index of the last pair looked at. -/
theorem enterPairs_cases (p : Params) (is : List (Fin 14)) (b : Block) :
    (∃ i ∈ is, 0 < (markRead p b.selR i).toNat ∧
      enterPairs p is b = enterHigh p { b with idx := i, ctr := markLoad (markRead p b.selR i) }) ∨
    (∃ i ∈ is, (markRead p b.selR i).toNat = 0 ∧ 0 < (spaceRead p b.selR i).toNat ∧
      enterPairs p is b = enterSilence p (spaceRead p b.selR i) { b with idx := i, ctr := 0 }) ∨
    ((∀ i ∈ is, (markRead p b.selR i).toNat = 0 ∧ (spaceRead p b.selR i).toNat = 0) ∧
      enterPairs p is b =
        enterGuard p { b with idx := is.getLastD b.idx, ctr := if is.isEmpty then b.ctr else 0 }) := by
  induction is generalizing b with
  | nil => exact .inr (.inr ⟨by simp, rfl⟩)
  | cons i rest ih =>
    by_cases hm : 0 < (markRead p b.selR i).toNat
    · refine .inl ⟨i, by simp, hm, ?_⟩
      have : markLoad (markRead p b.selR i) > 0 := by unfold markLoad; omega
      simp [enterPairs, this]
    · have hm0 : (markRead p b.selR i).toNat = 0 := by omega
      have hl : markLoad (markRead p b.selR i) = 0 := by unfold markLoad; omega
      by_cases hs : 0 < (spaceRead p b.selR i).toNat
      · exact .inr (.inl ⟨i, by simp, hm0, hs, by simp [enterPairs, hl, hs]⟩)
      · have hstep : enterPairs p (i :: rest) b = enterPairs p rest { b with idx := i, ctr := 0 } := by
          simp [enterPairs, hl, hs]
        rw [hstep]
        rcases ih { b with idx := i, ctr := 0 } with ⟨k, hk, h1, h2⟩ | ⟨k, hk, h1, h2, h3⟩ | ⟨h1, h2⟩
        · exact .inl ⟨k, by simp [hk], h1, h2⟩
        · exact .inr (.inl ⟨k, by simp [hk], h1, h2, h3⟩)
        · refine .inr (.inr ⟨?_, ?_⟩)
          · simp only [List.mem_cons, forall_eq_or_imp]
            exact ⟨⟨hm0, by omega⟩, h1⟩
          · rw [h2]
            cases rest with
            | nil => simp
            | cons j js => rw [List.getLastD_cons, List.getLastD_cons, List.getLastD_cons]; rfl

/-- What entering pairs leaves alone: the selector and the three flags. -/
theorem enterPairs_frame (p : Params) (is : List (Fin 14)) (b : Block) :
    (enterPairs p is b).selR = b.selR ∧ (enterPairs p is b).done = b.done ∧
      (enterPairs p is b).errSel = b.errSel ∧ (enterPairs p is b).ovr = b.ovr := by
  rcases enterPairs_cases p is b with ⟨_, _, _, h⟩ | ⟨_, _, _, _, h⟩ | ⟨_, h⟩ <;> rw [h] <;> simp

theorem enterSpace_frame (p : Params) (i : Fin 14) (b : Block) :
    (enterSpace p i b).selR = b.selR ∧ (enterSpace p i b).done = b.done ∧
      (enterSpace p i b).errSel = b.errSel ∧ (enterSpace p i b).ovr = b.ovr := by
  unfold enterSpace
  split
  · simp
  · exact enterPairs_frame ..

/-- Accepting writes `sel_r`, clears DONE and leaves ERR_SEL and OVR. -/
theorem accept_frame (p : Params) (d : Byte) (a : Block) :
    (accept p d a).selR = d ∧ (accept p d a).done = false ∧ (accept p d a).errSel = a.errSel ∧
      (accept p d a).ovr = a.ovr :=
  enterPairs_frame ..

/-! ### The timing step -/

/-- All that the end of a segment can do. -/
theorem segmentEnd_cases (p : Params) (b : Block) :
    (b.phase = .idle ∧ segmentEnd p b = b) ∨
    (b.phase = .markHi ∧ segmentEnd p b = enterLow p b) ∨
    (b.phase = .markLo ∧ 26 < b.ctr ∧ segmentEnd p b = enterHigh p { b with ctr := b.ctr - 26 }) ∨
    (b.phase = .markLo ∧ b.ctr ≤ 26 ∧ segmentEnd p b = enterSpace p b.idx { b with ctr := b.ctr - 26 }) ∨
    (b.phase = .space ∧ segmentEnd p b = enterNext p b.idx b) ∨
    (b.phase = .guard ∧ segmentEnd p b = { b with phase := .idle, tmr := 0, done := true }) := by
  cases hp : b.phase with
  | markLo =>
    by_cases hc : 26 < b.ctr
    · exact .inr (.inr (.inl ⟨rfl, hc, by simp [segmentEnd, hp, hc]⟩))
    · exact .inr (.inr (.inr (.inl ⟨rfl, by omega, by simp [segmentEnd, hp, hc]⟩)))
  | _ => simp [segmentEnd, hp]

theorem timerNext_of_pos {b : Block} (h : 1 ≤ b.tmr) : timerNext b = b.tmr - 1 := by
  unfold timerNext
  split <;> omega

theorem advance_idle {p : Params} {b : Block} (h : b.phase = .idle) : advance p b = b := by simp [advance, h]

theorem advance_last {p : Params} {b : Block} (hp : b.phase ≠ .idle) (ht : b.tmr = 1) :
    advance p b = segmentEnd p { b with tmr := 0 } := by
  simp [advance, hp, timerNext_of_pos (b := b) (by omega), ht]

theorem advance_count {p : Params} {b : Block} (hp : b.phase ≠ .idle) (ht : 2 ≤ b.tmr) :
    advance p b = { b with tmr := b.tmr - 1 } := by
  have : b.tmr - 1 ≠ 0 := by omega
  simp [advance, hp, timerNext_of_pos (b := b) (by omega), this]

/-- All that the timing step can do: IDLE stays, a segment goes on, or a segment ends. In the last two the new `tmr` is
one less, or for `tmr` = 0, which no run meets, the free value of log entry 9. -/
theorem advance_cases (p : Params) (b : Block) :
    (b.phase = .idle ∧ advance p b = b) ∨
    (b.phase ≠ .idle ∧ timerNext b ≠ 0 ∧ advance p b = { b with tmr := timerNext b }) ∨
    (b.phase ≠ .idle ∧ timerNext b = 0 ∧ advance p b = segmentEnd p { b with tmr := 0 }) := by
  by_cases hp : b.phase = .idle
  · exact .inl ⟨hp, advance_idle hp⟩
  · by_cases ht : timerNext b = 0
    · exact .inr (.inr ⟨hp, ht, by simp [advance, hp, ht]⟩)
    · exact .inr (.inl ⟨hp, ht, by simp [advance, hp, ht]⟩)

/-- What the timing step leaves alone: the selector and the two error flags, and DONE unless a guard ends. -/
theorem advance_frame (p : Params) (b : Block) :
    (advance p b).selR = b.selR ∧ (advance p b).errSel = b.errSel ∧ (advance p b).ovr = b.ovr ∧
      (advance p b).done = (b.done || (b.phase == .guard && timerNext b == 0)) := by
  rcases advance_cases p b with ⟨hp, h⟩ | ⟨hp, ht, h⟩ | ⟨hp, ht, h⟩
  · simp [h, hp]
  · simp [h, ht]
  · rcases segmentEnd_cases p { b with tmr := 0 } with ⟨h', e⟩ | ⟨h', e⟩ | ⟨h', _, e⟩ | ⟨h', _, e⟩ | ⟨h', e⟩ | ⟨h', e⟩ <;>
      rw [h, e] <;> replace h' : b.phase = _ := h'
    · exact absurd h' hp
    · simp [h']
    · simp [h']
    · obtain ⟨h1, h2, h3, h4⟩ := enterSpace_frame p b.idx { b with tmr := 0, ctr := b.ctr - 26 }
      exact ⟨h1, h3, h4, by rw [h2, h']; simp⟩
    · obtain ⟨h1, h2, h3, h4⟩ := enterPairs_frame p (pairIndices.drop (b.idx.val + 1)) { b with tmr := 0 }
      exact ⟨h1, h3, h4, by rw [enterNext, h2, h']; simp⟩
    · simp [h', ht]

/-- Of a block with ticks left, the guard ends exactly where `guardEnds` says, and DONE is set then. -/
theorem advance_done {p : Params} {b : Block} (ht : 1 ≤ b.tmr) : (advance p b).done = (b.done || guardEnds b) := by
  rw [(advance_frame p b).2.2.2, timerNext_of_pos ht]
  have : (b.tmr - 1 == 0) = (b.tmr == 1) := by rw [Bool.eq_iff_iff]; simp; omega
  simp [guardEnds, this]

/-! ### One tick -/

/-- A tick always answers, with the operation's effect on the timing step's block. -/
theorem tick_next {s t : State} {r : Option Byte} {e : Option ErrorEvent} {f : Block → Block} :
    tick s r e f = .next t ↔ t = s.observe r e (f (advance s.params s.block)) := by
  simp [tick, eq_comm]

theorem cmdTick_busy {s : State} {d : Byte} (h : s.block.phase ≠ .idle) :
    cmdTick s d = tick s none (some (.overrun d)) (raiseEvent (.overrun d)) := by
  simp [cmdTick, busy_iff.2 h]

theorem cmdTick_accept {s : State} {d : Byte} {n : Fin 12} (h : s.block.phase = .idle) (hn : tableIndex? d = some n) :
    cmdTick s d = tick s none none (accept s.params d) := by
  simp [cmdTick, not_busy_iff.2 h, hn]

theorem cmdTick_invalid {s : State} {d : Byte} (h : s.block.phase = .idle) (hn : tableIndex? d = none) :
    cmdTick s d = tick s none (some (.invalidSelector d)) (raiseEvent (.invalidSelector d)) := by
  simp [cmdTick, not_busy_iff.2 h, hn]

/-- An instruction that writes CMD is the CMD write of its selector. -/
theorem exec_cmd {i : Instr} {sel : Byte} (s : State) (h : i.selector? = some sel) : exec i s = cmdTick s sel := by
  cases i <;> simp only [Instr.selector?, Option.some.injEq, reduceCtorEq] at h <;> subst h <;> rfl

/-- An instruction that writes neither CMD nor STATUS is a tick that changes nothing itself. -/
theorem exec_other {i : Instr} (s : State) (h : i.selector? = none) (hw : ∀ d, i ≠ .wrStatus d) :
    exec i s = tick s ((readOf i).map (readReg s.block)) none id := by
  cases i <;> simp only [Instr.selector?, reduceCtorEq] at h <;> first | rfl | exact absurd rfl (hw _)

/-- All that an instruction can do. -/
theorem exec_next {i : Instr} {s t : State} (h : exec i s = .next t) :
    (i.selector? = none ∧ (∀ d, i ≠ .wrStatus d) ∧
      t = s.observe ((readOf i).map (readReg s.block)) none (advance s.params s.block)) ∨
    (∃ d, i = .wrStatus d ∧
      t = s.observe none none (clearFlags s.block (clearMask d) (advance s.params s.block))) ∨
    (∃ d, i.selector? = some d ∧ s.block.phase ≠ .idle ∧
      t = s.observe none (some (.overrun d)) (raiseEvent (.overrun d) (advance s.params s.block))) ∨
    (∃ d n, i.selector? = some d ∧ s.block.phase = .idle ∧ tableIndex? d = some n ∧
      t = s.observe none none (accept s.params d s.block)) ∨
    (∃ d, i.selector? = some d ∧ s.block.phase = .idle ∧ tableIndex? d = none ∧
      t = s.observe none (some (.invalidSelector d)) (raiseEvent (.invalidSelector d) s.block)) := by
  cases hi : i.selector? with
  | some d =>
    rw [exec_cmd s hi] at h
    by_cases hp : s.block.phase = .idle
    · cases hn : tableIndex? d with
      | some n =>
        rw [cmdTick_accept hp hn, tick_next, advance_idle hp] at h
        exact .inr (.inr (.inr (.inl ⟨d, n, rfl, hp, hn, h⟩)))
      | none =>
        rw [cmdTick_invalid hp hn, tick_next, advance_idle hp] at h
        exact .inr (.inr (.inr (.inr ⟨d, rfl, hp, hn, h⟩)))
    · rw [cmdTick_busy hp, tick_next] at h
      exact .inr (.inr (.inl ⟨d, rfl, hp, h⟩))
  | none =>
    by_cases hw : ∃ d, i = .wrStatus d
    · obtain ⟨d, rfl⟩ := hw
      exact .inr (.inl ⟨d, rfl, tick_next.1 h⟩)
    · have hw' : ∀ d, i ≠ .wrStatus d := fun d hd => hw ⟨d, hd⟩
      rw [exec_other s hi hw', tick_next] at h
      exact .inl ⟨rfl, hw', h⟩

/-! ### The step -/

theorem fetch_word {h : HostTick} {w : Nat} (hw : h.words = [w]) (hl : w < 4096) :
    fetch h = .ok (decodeWord (BitVec.ofNat 12 w)) := by
  simp [fetch, hw, decode, hl]

theorem fetch_none {h : HostTick} (hw : h.words = []) : fetch h = .ok .nop := by simp [fetch, hw]

/-- All that a step to a next state can be: the reset tick or the instruction of the host's word. -/
theorem step_next {s t : State} (h : step s = .next t) :
    ∃ i, fetch (nextInput s) = .ok i ∧
      (((nextInput s).rst = true ∧ resetTick i s.consume = .next t) ∨
        ((nextInput s).rst = false ∧ exec i s.consume = .next t)) := by
  unfold step at h
  cases hf : fetch (nextInput s) with
  | error r => simp [hf] at h
  | ok i =>
    cases hr : (nextInput s).rst
    · exact ⟨i, rfl, .inr ⟨rfl, by simpa [hf, hr] using h⟩⟩
    · exact ⟨i, rfl, .inl ⟨rfl, by simpa [hf, hr] using h⟩⟩

/-- The reset tick always answers, with the block in its reset state. -/
theorem resetTick_next {i : Instr} {s t : State} :
    resetTick i s = .next t ↔ t = s.observe ((readOf i).map (readReg s.block)) none .reset := by
  simp [resetTick, eq_comm]

end Sys2Proof.Machine
end

