-- ==== Sys2Proof/Laws/PerInstr.lean ====
section
/-!
SUPPORT. Statements about every instruction as syntax, one lemma per constructor.
-/

namespace Sys2Proof.Laws.RowMatch

/-- The canonical word of a well-formed instruction has the fixed bits of its row (30_encoding.md R79). -/
def Statement (i : Instr) : Prop := i.WellFormed → (opcodeRow i).accepts (encode i) = true

theorem nop : Statement .nop := by unfold Statement; decide
theorem rdCmd : Statement .rdCmd := by unfold Statement; decide
theorem rdStatus : Statement .rdStatus := by unfold Statement; decide
theorem rdPhase : Statement .rdPhase := by unfold Statement; decide
theorem rdRsvd : Statement .rdRsvd := by unfold Statement; decide
theorem txAPlus : Statement .txAPlus := by unfold Statement; decide
theorem txAMinus : Statement .txAMinus := by unfold Statement; decide
theorem txAOff : Statement .txAOff := by unfold Statement; decide
theorem txBPlus : Statement .txBPlus := by unfold Statement; decide
theorem txBMinus : Statement .txBMinus := by unfold Statement; decide
theorem txBOff : Statement .txBOff := by unfold Statement; decide
theorem txCPlus : Statement .txCPlus := by unfold Statement; decide
theorem txCMinus : Statement .txCMinus := by unfold Statement; decide
theorem txCOff : Statement .txCOff := by unfold Statement; decide
theorem txDPlus : Statement .txDPlus := by unfold Statement; decide
theorem txDMinus : Statement .txDMinus := by unfold Statement; decide
theorem txDOff : Statement .txDOff := by unfold Statement; decide
theorem txInvalid0 : Statement .txInvalid0 := by unfold Statement; decide
theorem txInvalid13 : Statement .txInvalid13 := by unfold Statement; decide
theorem txInvalid14 : Statement .txInvalid14 := by unfold Statement; decide
theorem txInvalid15 : Statement .txInvalid15 := by unfold Statement; decide
theorem txInvalid16To31 (sel : Byte) : Statement (.txInvalid16To31 sel) := by
  unfold Statement; revert sel; decide
theorem txInvalid32To63 (sel : Byte) : Statement (.txInvalid32To63 sel) := by
  unfold Statement; revert sel; decide
theorem txInvalid64To127 (sel : Byte) : Statement (.txInvalid64To127 sel) := by
  unfold Statement; revert sel; decide
theorem txInvalid128To255 (sel : Byte) : Statement (.txInvalid128To255 sel) := by
  unfold Statement; revert sel; decide
theorem wrStatus (d : Byte) : Statement (.wrStatus d) := by
  unfold Statement; revert d; decide
theorem wrPhase (d : Byte) : Statement (.wrPhase d) := by
  unfold Statement; revert d; decide
theorem wrRsvd (d : Byte) : Statement (.wrRsvd d) := by
  unfold Statement; revert d; decide

end Sys2Proof.Laws.RowMatch
end

