-- ==== Sys2Proof/Tests/Slice0.lean ====
section
/-!
SUPPORT. The model's own tests. Expected results are the vectors of 95_test_vectors.md, the tables of 30_encoding.md, or
counted by hand from a rule; each test names its source. The last part shows, for every statement with hypotheses, that
they can be met.
-/

namespace Sys2Proof.Tests

open Sys2Proof Sys2Proof.Machine

/-! ## Helpers -/

/-- The block after an answer that goes on. -/
def blockOf : Answer → Option Block
  | .next t => some t.block
  | .fault _ | .refused _ => none

/-- What the tick just over showed. -/
def shown : Answer → Option TickRecord
  | .next t => t.history.head?
  | .fault _ | .refused _ => none

/-- STATUS after an answer that goes on. -/
def statusOf (a : Answer) : Option Byte := (blockOf a).map fun b => readReg b .status

/-- A machine with the default parameters and the given block. -/
def at' (b : Block) : State := { State.reset with block := b }

/-- The machine after reset, with one input. -/
def fresh (h : HostTick) : State := { State.reset with inputs := [h] }

/-- A table whose first pair is given and whose others are (0, 0). -/
def firstPairOnly (q : Pair) : PulseTable :=
  #v[q, ⟨0, 0⟩, ⟨0, 0⟩, ⟨0, 0⟩, ⟨0, 0⟩, ⟨0, 0⟩, ⟨0, 0⟩, ⟨0, 0⟩, ⟨0, 0⟩, ⟨0, 0⟩, ⟨0, 0⟩, ⟨0, 0⟩, ⟨0, 0⟩, ⟨0, 0⟩]

/-- An IDLE machine whose eleven open tables are all the given one: a made-up PULSE_TABLE, as in vectors V-SEQ-H. -/
def withTables (t : PulseTable) : State :=
  { State.reset with params := { Params.default with openTables := #v[t, t, t, t, t, t, t, t, t, t, t] } }

/-- Selector 3's frame in its first tick. -/
def inMark : Block := ⟨.markHi, 0, 3, 1800, 13, false, false, false⟩

/-- Selector 3's frame in the last tick of its guard. -/
def inLastGuardTick : Block := ⟨.guard, 13, 3, -22, 1, false, false, false⟩

/-- IDLE with the three flags set, STATUS 0x0E. -/
def flagged : Block := ⟨.idle, 13, 3, -22, 0, true, true, true⟩

/-! ## Well-formedness: each check refuses an ill-formed term -/

theorem test_wf_16_31_refuses_15 : (Instr.txInvalid16To31 15).wellFormed = false := by decide
theorem test_wf_16_31_refuses_32 : (Instr.txInvalid16To31 32).wellFormed = false := by decide
theorem test_wf_32_63_refuses_31 : (Instr.txInvalid32To63 31).wellFormed = false := by decide
theorem test_wf_32_63_refuses_64 : (Instr.txInvalid32To63 64).wellFormed = false := by decide
theorem test_wf_64_127_refuses_63 : (Instr.txInvalid64To127 63).wellFormed = false := by decide
theorem test_wf_64_127_refuses_128 : (Instr.txInvalid64To127 128).wellFormed = false := by decide
theorem test_wf_128_255_refuses_127 : (Instr.txInvalid128To255 127).wellFormed = false := by decide

/-! ## Decoding: a word of every constructor, written out from 30_encoding.md R79 -/

theorem test_decode_no_access : decode 0b011111111111 = .ok .nop ∧ decode 0b000000000000 = .ok .nop := by
  exact ⟨rfl, rfl⟩

theorem test_decode_reads :
    decode 0b100000000000 = .ok .rdCmd ∧ decode 0b100111111111 = .ok .rdStatus ∧
      decode 0b101000000001 = .ok .rdPhase ∧ decode 0b101110000000 = .ok .rdRsvd := by
  exact ⟨rfl, rfl, rfl, rfl⟩

theorem test_decode_transmissions :
    decode 0b110000000001 = .ok .txAPlus ∧ decode 0b110000000010 = .ok .txAMinus ∧
      decode 0b110000000011 = .ok .txAOff ∧ decode 0b110000000100 = .ok .txBPlus ∧
      decode 0b110000000101 = .ok .txBMinus ∧ decode 0b110000000110 = .ok .txBOff ∧
      decode 0b110000000111 = .ok .txCPlus ∧ decode 0b110000001000 = .ok .txCMinus ∧
      decode 0b110000001001 = .ok .txCOff ∧ decode 0b110000001010 = .ok .txDPlus ∧
      decode 0b110000001011 = .ok .txDMinus ∧ decode 0b110000001100 = .ok .txDOff := by
  exact ⟨rfl, rfl, rfl, rfl, rfl, rfl, rfl, rfl, rfl, rfl, rfl, rfl⟩

theorem test_decode_invalid_selectors :
    decode 0b110000000000 = .ok .txInvalid0 ∧ decode 0b110000001101 = .ok .txInvalid13 ∧
      decode 0b110000001110 = .ok .txInvalid14 ∧ decode 0b110000001111 = .ok .txInvalid15 ∧
      decode 0b110000011010 = .ok (.txInvalid16To31 26) ∧ decode 0b110000100000 = .ok (.txInvalid32To63 32) ∧
      decode 0b110001111111 = .ok (.txInvalid64To127 127) ∧
      decode 0b110010000000 = .ok (.txInvalid128To255 128) := by
  exact ⟨rfl, rfl, rfl, rfl, rfl, rfl, rfl, rfl⟩

theorem test_decode_writes :
    decode 0b110100000010 = .ok (.wrStatus 0x02) ∧ decode 0b111011111111 = .ok (.wrPhase 0xFF) ∧
      decode 0b111101010101 = .ok (.wrRsvd 0x55) := by
  exact ⟨rfl, rfl, rfl⟩

theorem test_decode_wide_word_rejected : decode 0x1C03 = .error .wideWord ∧ decodeTableWord 16 0x1C03 = none := by
  exact ⟨rfl, rfl⟩

/-! ## Reset (70_reset_and_hazards.md, vectors V-RST) -/

/-- V-RST-1: the write has no effect and raises no event. -/
theorem test_reset_overrides_cmd_write :
    blockOf (step { at' inMark with inputs := [⟨true, [0xC03]⟩] }) = some Block.reset ∧
      shown (step { at' inMark with inputs := [⟨true, [0xC03]⟩] }) = some ⟨true, none, none⟩ := by decide

/-- V-RST-2: the read in the reset tick returns 0x01, from the state before. -/
theorem test_reset_tick_read_sees_old_state :
    shown (step { at' ⟨.markLo, 0, 3, 1722, 5, false, false, false⟩ with inputs := [⟨true, [0x900]⟩] }) =
      some ⟨false, some 0x01, none⟩ := by decide

/-- V-RST-4: no DONE when the guard is cut. -/
theorem test_reset_in_guard_sets_no_done :
    blockOf (step { at' inLastGuardTick with inputs := [⟨true, []⟩] }) = some Block.reset := by decide

/-! ## Reads (45_register_access.md, vectors V-REG, V-TX) -/

/-- V-TX-6: CMD keeps the last accepted selector. -/
theorem test_rdCmd_after_frame : shown (exec .rdCmd (at' flagged)) = some ⟨false, some 0x03, none⟩ := by decide

/-- 45_register_access.md R203, example: 0x11 in the first tick of the frame. -/
theorem test_rdStatus_in_mark : shown (exec .rdStatus (at' inMark)) = some ⟨true, some 0x11, none⟩ := by decide

/-- V-REG-8: the read clears no bit. -/
theorem test_rdStatus_clears_nothing :
    shown (exec .rdStatus (at' flagged)) = some ⟨false, some 0x0E, none⟩ ∧
      blockOf (exec .rdStatus (at' flagged)) = some flagged := by decide

/-- V-TX-4: 0x4D in the guard. -/
theorem test_rdPhase_in_guard : shown (exec .rdPhase (at' inLastGuardTick)) = some ⟨false, some 0x4D, none⟩ := by decide

/-- V-TX-4: 0x30 in the first space. -/
theorem test_rdPhase_in_space :
    shown (exec .rdPhase (at' ⟨.space, 0, 3, -20, 1800, false, false, false⟩)) = some ⟨false, some 0x30, none⟩ := by decide

/-- V-REG-7. -/
theorem test_rdRsvd_reads_zero : shown (exec .rdRsvd (at' flagged)) = some ⟨false, some 0x00, none⟩ := by decide

/-! ## Status writes (45_register_access.md R207, vectors V-REG) -/

/-- V-REG-1 and V-REG-3. -/
theorem test_wrStatus_clears_only_named_bits :
    statusOf (exec (.wrStatus 0x04) (at' flagged)) = some 0x0A ∧
      statusOf (exec (.wrStatus 0x11) (at' flagged)) = some 0x0E := by decide

/-- V-REG-4: set wins. -/
theorem test_wrStatus_done_set_wins :
    blockOf (exec (.wrStatus 0x02) (at' inLastGuardTick)) = some ⟨.idle, 13, 3, -22, 0, true, false, false⟩ := by decide

/-! ## NOP and ignored writes -/

/-- 95_test_vectors.md V-MARK-14: the low half follows 13 ticks of high. -/
theorem test_nop_ends_high_half :
    blockOf (exec .nop (at' { inMark with tmr := 1 })) = some ⟨.markLo, 0, 3, 1800, 13, false, false, false⟩ := by decide

/-- V-MARK-14: tick 27 is MARK_HI again with ctr = 1774. -/
theorem test_nop_starts_next_cycle :
    blockOf (exec .nop (at' ⟨.markLo, 0, 3, 1800, 1, false, false, false⟩)) =
      some ⟨.markHi, 0, 3, 1774, 13, false, false, false⟩ := by decide

/-- V-MARK-13: pair 1 enters its space with ctr = −12 and tmr = 300; the write to PHASE is ignored (V-REG-6). -/
theorem test_wrPhase_ignored_at_end_of_mark :
    blockOf (exec (.wrPhase 0xFF) (at' ⟨.markLo, 1, 3, 14, 1, false, false, false⟩)) =
      some ⟨.space, 1, 3, -12, 300, false, false, false⟩ := by decide

/-- V-SEQ-1: after the last space comes the guard; the write to RSVD is ignored. -/
theorem test_wrRsvd_ignored_at_end_of_last_space :
    blockOf (exec (.wrRsvd 0x55) (at' ⟨.space, 13, 3, -22, 1, false, false, false⟩)) =
      some ⟨.guard, 13, 3, -22, 30000, false, false, false⟩ := by decide

/-! ## CMD writes (44_transmission_engine.md, vectors V-TX, V-ERR, V-SEQ-H) -/

/-- V-TX-1, by one step from reset. -/
theorem test_txAOff_from_reset : blockOf (step (fresh ⟨false, [0xC03]⟩)) = some inMark := by decide

/-- V-TX-5 and V-ERR-7: accepting clears DONE and keeps the error flags. -/
theorem test_txAOff_keeps_error_flags :
    blockOf (exec .txAOff (at' flagged)) = some ⟨.markHi, 0, 3, 1800, 13, false, true, true⟩ := by decide

/-- V-SEQ-H1: a table of zeros goes to the guard at once. -/
theorem test_txAPlus_zero_table :
    blockOf (exec .txAPlus (withTables (firstPairOnly ⟨0, 0⟩))) =
      some ⟨.guard, 13, 1, 0, 30000, false, false, false⟩ := by decide

/-- V-SEQ-H2: a first pair (0, 5) starts with its space. -/
theorem test_txAMinus_zero_mark :
    blockOf (exec .txAMinus (withTables (firstPairOnly ⟨0, 5⟩))) =
      some ⟨.space, 0, 2, 0, 50, false, false, false⟩ := by decide

/-- V-SEQ-H3: a mark of 1 loads the counter with 10. -/
theorem test_txDOff_short_mark :
    blockOf (exec .txDOff (withTables (firstPairOnly ⟨1, 0⟩))) =
      some ⟨.markHi, 0, 12, 10, 13, false, false, false⟩ := by decide

/-- 44_transmission_engine.md R173 to R180: each writes its own selector. -/
theorem test_tx_selectors :
    [Instr.txBPlus, .txBMinus, .txBOff, .txCPlus, .txCMinus, .txCOff, .txDPlus, .txDMinus].map
      (fun i => (blockOf (exec i (withTables (firstPairOnly ⟨0, 0⟩)))).map Block.selR) =
      [some 4, some 5, some 6, some 7, some 8, some 9, some 10, some 11] := by decide

/-- V-ERR-1 to V-ERR-3 and the selectors between: STATUS 0x04 next, no frame. -/
theorem test_txInvalid_from_reset :
    [Instr.txInvalid0, .txInvalid13, .txInvalid14, .txInvalid15, .txInvalid16To31 16, .txInvalid32To63 63,
      .txInvalid64To127 64, .txInvalid128To255 255].map (fun i => blockOf (exec i State.reset)) =
      List.replicate 8 (some { Block.reset with errSel := true }) := by decide

/-- V-ERR-4: DONE stays 1. -/
theorem test_txInvalid_keeps_done :
    statusOf (exec .txInvalid0 (at' ⟨.idle, 13, 3, -22, 0, true, false, false⟩)) = some 0x06 := by decide

/-- V-ERR-5, V-ERR-6: an Overrun, whether the selector is valid or not; the frame goes on. -/
theorem test_overrun_in_mark :
    [Instr.txAOff, .txInvalid13].map (fun i => blockOf (exec i (at' inMark))) =
      List.replicate 2 (some { inMark with tmr := 12, ovr := true }) ∧
    statusOf (exec .txAOff (at' inMark)) = some 0x19 := by decide

/-- V-TX-8: a request in the last tick of the guard is an Overrun, and the frame still ends. -/
theorem test_overrun_in_last_guard_tick :
    blockOf (exec .txAOff (at' inLastGuardTick)) = some ⟨.idle, 13, 3, -22, 0, true, false, true⟩ := by decide

/-! ## Stops -/

/-- 93_implementation_defined.md I7. -/
theorem test_two_words_refused : step (fresh ⟨false, [0x000, 0x900]⟩) = .refused .twoOperations := by rfl

/-- 93_implementation_defined.md I7. -/
theorem test_wide_word_refused : step (fresh ⟨true, [0x1000]⟩) = .refused .wideWord := by rfl

/-! ## Every state has a next one (44_transmission_engine.md R190) -/

/-- A space that ends with `sel_r` = 0, which no run meets (log entry 8). -/
def spaceWithoutTable : Block := ⟨.space, 0, 0, -20, 1, false, false, true⟩

/-- The machine goes on, the read shows STATUS, and `sel_r` and the flags are as the rules say. -/
theorem test_end_of_space_without_table :
    shown (exec .rdStatus (at' spaceWithoutTable)) = some ⟨false, some 0x09, none⟩ ∧
      ∃ b, blockOf (exec .rdStatus (at' spaceWithoutTable)) = some b ∧ b.selR = 0 ∧ b.ovr = true ∧ b.done = false := by
  have h := advance_frame Params.default spaceWithoutTable
  exact ⟨rfl, _, rfl, h.1, h.2.2.1, h.2.2.2⟩

/-- A mark with `tmr` = 0, which no run meets (log entry 9). -/
def markWithoutTicks : Block := { inMark with tmr := 0 }

/-- The machine goes on and the request is an Overrun. -/
theorem test_request_in_mark_without_ticks :
    shown (exec .txAOff (at' markWithoutTicks)) = some ⟨true, none, some (.overrun 3)⟩ ∧
      ∃ b, blockOf (exec .txAOff (at' markWithoutTicks)) = some b ∧ b.selR = 3 ∧ b.ovr = true := by
  have h := advance_frame Params.default markWithoutTicks
  exact ⟨rfl, _, rfl, h.1, rfl⟩

/-! ## Tables and durations (vectors V-LUT, V-MARK) -/

/-- V-LUT-1 to V-LUT-8: addresses and the known values. -/
theorem test_rom_addresses :
    [(markAddr 2 0).val, (spaceAddr 2 0).val, (spaceAddr 2 3).val, (spaceAddr 2 9).val, (markAddr 2 13).val,
      (spaceAddr 2 13).val, (markAddr 0 0).val, (spaceAddr 11 13).val] = [56, 57, 63, 75, 82, 83, 0, 335] ∧
    [mark Params.default 2 0, space Params.default 2 3, space Params.default 2 9, mark Params.default 2 13,
      space Params.default 2 13] = [180, 60, 60, 120, 240] := by decide

/-- V-MARK-1 to V-MARK-12: the cycle counts. -/
theorem test_cycle_counts :
    [0, 1, 2, 3, 12, 13, 14, 30, 120, 180, 255, 65535].map cycleCount =
      [0, 1, 1, 2, 5, 5, 6, 12, 47, 70, 99, 25206] := by decide

/-! ## Assembly lines (30_encoding.md R83, R84) -/

/-- `WR CMD, 0x0C` is 0xC0C; `TX A0` is `WR CMD, 3`; a label stands before its line. -/
theorem test_assembly_lines :
    parseLine ['W', 'R', ' ', 'C', 'M', 'D', ',', ' ', '0', 'x', '0', 'C'] = some ⟨none, .wr .cmd 12⟩ ∧
      parseLine ['a', ':', ' ', 'T', 'X', ' ', 'A', '0'] = some ⟨some ['a'], .txName .a .off⟩ ∧
      assembleOp Params.default (.txName .a .off) = some [0xC03] := by decide

/-! ## Witnesses: the hypotheses of the statements can be met -/

/-- A tick with reset that answers. -/
theorem witness_ResetStateHoldsTheListedValues :
    ∃ s t : State, (nextInput s).rst = true ∧ step s = .next t := ⟨fresh ⟨true, []⟩, _, rfl, rfl⟩

/-- A reset tick with each kind of operation: the four reads, and one that reads nothing. -/
theorem witness_ResetTickGivesResetStateAndOldReadValue :
    ∀ r ∈ [(0x800, Instr.rdCmd), (0x900, .rdStatus), (0xA00, .rdPhase), (0xB00, .rdRsvd), (0xC03, .txAOff)],
      (nextInput (fresh ⟨true, [r.1]⟩)).rst = true ∧ fetch (nextInput (fresh ⟨true, [r.1]⟩)) = .ok r.2 := by
  simp only [List.forall_mem_cons]
  exact ⟨⟨rfl, rfl⟩, ⟨rfl, rfl⟩, ⟨rfl, rfl⟩, ⟨rfl, rfl⟩, ⟨rfl, rfl⟩, by simp⟩

/-- Well-formed terms at both ends of each range. -/
theorem witness_DecodeOfEncodeIsTheInstruction :
    ∀ i ∈ [Instr.txInvalid16To31 16, .txInvalid16To31 31, .txInvalid32To63 32, .txInvalid32To63 63,
      .txInvalid64To127 64, .txInvalid64To127 127, .txInvalid128To255 128, .txInvalid128To255 255, .nop],
      i.WellFormed := by decide

/-- Each range of words at both ends. -/
theorem witness_ReadAndWriteWordsCoverTheirRanges :
    [0x800, 0x8FF, 0x900, 0x9FF, 0xA00, 0xAFF, 0xB00, 0xBFF].map decodeWord =
      [.rdCmd, .rdCmd, .rdStatus, .rdStatus, .rdPhase, .rdPhase, .rdRsvd, .rdRsvd] ∧
    [0xC00, 0xCFF].map (fun w => (decodeWord w).selector?) = [some 0, some 255] ∧
    [0xD00, 0xDFF, 0xE00, 0xEFF, 0xF00, 0xFFF].map decodeWord =
      [.wrStatus 0, .wrStatus 255, .wrPhase 0, .wrPhase 255, .wrRsvd 0, .wrRsvd 255] := by decide

/-- The smallest wide word. -/
theorem witness_WideWordsAreRejectedByName : ∃ w : Nat, 4096 ≤ w := ⟨4096, by decide⟩

/-- A tick with the last word of the map, one without a word, and a state without inputs. -/
theorem witness_StepRunsTheDecodedInstruction :
    (∃ (s : State) (w : BusWord), w = 0xFFF ∧ nextInput s = ⟨false, [w.toNat]⟩) ∧
      (∃ s : State, nextInput s = ⟨false, []⟩) ∧ (∃ s : State, s.inputs = []) :=
  ⟨⟨fresh ⟨false, [0xFFF]⟩, 0xFFF, rfl, rfl⟩, ⟨fresh ⟨false, []⟩, rfl⟩, ⟨State.reset, rfl⟩⟩

theorem witness_PlacedWordIsTheNextOneRun :
    decodeTableWord 16 0xFFF = some (.wrRsvd 0xFF) ∧ decodeTableWord 16 0xC03 = some .txAOff := ⟨rfl, rfl⟩

/-- Two words; one word just too wide; and the widest legal one. -/
theorem witness_StepRefusesExactlyIllegalTicks :
    (∃ s : State, 2 ≤ (nextInput s).words.length) ∧
      (∃ (s : State) (w : Nat), (nextInput s).words = [w] ∧ 4096 ≤ w) ∧
      (∃ s : State, (nextInput s).Legal ∧ (nextInput s).words = [4095]) :=
  ⟨⟨fresh ⟨false, [0, 0]⟩, by decide⟩, ⟨fresh ⟨false, [4096]⟩, 4096, rfl, by decide⟩,
    ⟨fresh ⟨false, [4095]⟩, by decide, rfl⟩⟩

/-- The default parameters are as 00_scope.md R7 asks. -/
theorem default_params_wf : Params.default.Wf := by decide

/-- A frame in its first tick satisfies the invariant. -/
theorem inMark_inv : (at' inMark).Inv := by
  refine ⟨default_params_wf, ?_⟩
  constructor <;> simp [at', inMark, halfTicks, Params.default]

/-- Legal ticks in a reachable busy state, and in a busy one whose `sel_r` has no table. -/
theorem witness_StepIsTotalForALegalHost :
    (∃ s : State, s.Inv ∧ (nextInput s).Legal) ∧
      (∃ s : State, s.block.phase ≠ .idle ∧ s.block.selR = 0 ∧ (nextInput s).Legal) :=
  ⟨⟨at' inMark, inMark_inv, by decide⟩, ⟨at' { inMark with selR := 0 }, by decide, rfl, by decide⟩⟩

/-- IDLE; a segment with two ticks left; a segment in its last tick. -/
theorem witness_AdvanceCountsTheSegmentDown :
    Block.reset.phase = .idle ∧
      (∃ b : Block, b.phase ≠ .idle ∧ 2 ≤ b.tmr ∧ b.tmr = 1 + 1) ∧
      (∃ b : Block, b.phase ≠ .idle ∧ b.tmr = 1) :=
  ⟨rfl, ⟨{ inMark with tmr := 2 }, by decide, by decide, rfl⟩, ⟨{ inMark with tmr := 1 }, by decide, rfl⟩⟩

/-- The last tick of each kind of segment, the mark's last cycle with the counter at 27 and at 26. -/
theorem witness_EndOfASegmentEntersTheNext :
    ∀ r ∈ [(Phase.markHi, (1800 : Int)), (.markLo, 27), (.markLo, 26), (.space, -12), (.guard, -22)],
      ∃ b : Block, b.tmr = 1 ∧ b.phase = r.1 ∧ b.ctr = r.2 :=
  fun r _ => ⟨⟨r.1, 13, 3, r.2, 1, false, false, false⟩, rfl, rfl, rfl⟩

theorem witness_EnteringFollowsTheThreeProcedures :
    (∃ i : Fin 14, i.val < 13 ∧ i.val = 12) ∧ (∃ i : Fin 14, i.val = 13) ∧
      (∃ (b : Block) (n : Fin 12), b.selR.toNat = n.val + 1) :=
  ⟨⟨12, by decide⟩, ⟨13, rfl⟩, ⟨inMark, 2, rfl⟩⟩

/-- A state whose guard ends, and one whose DONE can be cleared. -/
theorem witness_StatusWriteClearsTheNamedFlags :
    (∃ (s : State) (a : Block), a = advance s.params s.block ∧ s.block.phase = .guard ∧ s.block.tmr = 1) ∧
      (∃ (s : State) (a : Block), a = advance s.params s.block ∧ s.block.done = true) :=
  ⟨⟨at' inLastGuardTick, _, rfl, rfl, rfl⟩, ⟨at' flagged, _, rfl, rfl⟩⟩

theorem witness_ValidRequestFromIdleIsAccepted : ∃ s : State, s.block.phase = .idle := ⟨at' flagged, rfl⟩

/-- One selector of each range, at an end of it. -/
theorem witness_InvalidRequestFromIdleSetsOnlyErrSel :
    (∀ i ∈ [Instr.txInvalid0, .txInvalid13, .txInvalid14, .txInvalid15, .txInvalid16To31 16, .txInvalid32To63 32,
      .txInvalid64To127 127, .txInvalid128To255 255], i.WellFormed) ∧ ∃ s : State, s.block.phase = .idle :=
  ⟨by decide, State.reset, rfl⟩

theorem witness_RequestDuringAFrameSetsOnlyOvr :
    ∃ (i : Instr) (sel : Byte) (s : State), i.selector? = some sel ∧ s.block.phase ≠ .idle :=
  ⟨.txInvalid13, 13, at' inLastGuardTick, rfl, by decide⟩

theorem witness_SelectorThreeStartsItsLeadInMark : ∃ s : State, s.block.phase = .idle := ⟨State.reset, rfl⟩

/-- An InvalidSelector and an Overrun. -/
theorem witness_ErrorEventChangesOnlyItsOwnBit :
    (∃ t, exec .txInvalid0 State.reset = .next t ∧ t.history.head? = some ⟨false, none, some (.invalidSelector 0)⟩) ∧
      (∃ t, exec .txAOff (at' inMark) = .next t ∧ t.history.head? = some ⟨true, none, some (.overrun 3)⟩) :=
  ⟨⟨_, rfl, rfl⟩, ⟨_, rfl, rfl⟩⟩

theorem witness_NoOperationDisturbsARunningFrame :
    ∃ s t u : State, s.block.phase ≠ .idle ∧ exec (.wrStatus 0xFF) s = .next t ∧ exec .nop s = .next u :=
  ⟨at' inMark, _, _, by decide, rfl, rfl⟩

/-- A step with an operation that fetches and answers, from IDLE and within a frame. -/
theorem steps_that_answer :
    (∃ s t : State, fetch (nextInput s) = .ok .txInvalid0 ∧ step s = .next t ∧ s.block.phase = .idle) ∧
      (∃ s t : State, fetch (nextInput s) = .ok .txAOff ∧ step s = .next t ∧ s.block.phase = .idle) ∧
      (∃ s t : State, fetch (nextInput s) = .ok .txAOff ∧ step s = .next t ∧ s.block.phase ≠ .idle) ∧
      (∃ s t : State, fetch (nextInput s) = .ok (.wrStatus 0x0E) ∧ step s = .next t ∧ s.block.phase = .guard ∧
        s.block.tmr = 1) ∧
      (∃ s t : State, fetch (nextInput s) = .ok .nop ∧ step s = .next t ∧ (nextInput s).rst = true) :=
  ⟨⟨fresh ⟨false, [0xC00]⟩, _, rfl, rfl, rfl⟩, ⟨fresh ⟨false, [0xC03]⟩, _, rfl, rfl, rfl⟩,
    ⟨{ at' inMark with inputs := [⟨false, [0xC03]⟩] }, _, rfl, rfl, by decide⟩,
    ⟨{ at' inLastGuardTick with inputs := [⟨false, [0xD0E]⟩] }, _, rfl, rfl, rfl, rfl⟩,
    ⟨fresh ⟨true, []⟩, _, rfl, rfl, rfl⟩⟩

theorem witness_ErrSelIsStickyAndSetByInvalidSelectorOnly :
    ∃ (s t : State) (i : Instr), fetch (nextInput s) = .ok i ∧ step s = .next t := by
  obtain ⟨s, t, h, h', _⟩ := steps_that_answer.1
  exact ⟨s, t, _, h, h'⟩

theorem witness_OvrIsStickyAndSetByOverrunOnly :
    ∃ (s t : State) (i : Instr), fetch (nextInput s) = .ok i ∧ step s = .next t ∧ s.block.phase ≠ .idle := by
  obtain ⟨s, t, h, h', hp⟩ := steps_that_answer.2.2.1
  exact ⟨s, t, _, h, h', hp⟩

/-- A STATUS write of all three clear bits in the last tick of the guard. -/
theorem witness_DoneIsSetByTheEndOfTheGuard :
    ∃ (s t : State) (i : Instr), s.Inv ∧ fetch (nextInput s) = .ok i ∧ step s = .next t ∧ s.block.phase = .guard ∧
      s.block.tmr = 1 := by
  refine ⟨{ at' inLastGuardTick with inputs := [⟨false, [0xD0E]⟩] }, _, .wrStatus 0x0E, ⟨default_params_wf, ?_⟩, rfl, rfl,
    rfl, rfl⟩
  constructor <;> simp [at', inLastGuardTick, guardTicks, Params.default]

/-- An accept with the first and the last valid selector, a step without accept, and a reset. -/
theorem witness_SelectorRegisterIsWrittenOnlyByAnAccept :
    (∀ r ∈ [(0xC01, Instr.txAPlus, (1 : Byte)), (0xC0C, .txDOff, 12)],
      ∃ s t : State, fetch (nextInput s) = .ok r.2.1 ∧ step s = .next t ∧ (nextInput s).rst = false ∧
        s.block.phase = .idle ∧ r.2.1.selector? = some r.2.2 ∧ 1 ≤ r.2.2.toNat ∧ r.2.2.toNat ≤ 12) ∧
    (∃ s t : State, fetch (nextInput s) = .ok .txInvalid0 ∧ step s = .next t ∧ (nextInput s).rst = false) ∧
    (∃ s t : State, fetch (nextInput s) = .ok .nop ∧ step s = .next t ∧ (nextInput s).rst = true) := by
  refine ⟨?_, ⟨fresh ⟨false, [0xC00]⟩, _, rfl, rfl, rfl⟩, ⟨fresh ⟨true, []⟩, _, rfl, rfl, rfl⟩⟩
  simp only [List.forall_mem_cons]
  exact ⟨⟨fresh ⟨false, [0xC01]⟩, _, rfl, rfl, rfl, rfl, rfl, by decide, by decide⟩,
    ⟨fresh ⟨false, [0xC0C]⟩, _, rfl, rfl, rfl, rfl, rfl, by decide, by decide⟩, by simp⟩

theorem witness_NoStepChangesTheRom : ∃ s t : State, step s = .next t := ⟨fresh ⟨false, [0xC01]⟩, _, rfl⟩

theorem witness_EveryTickRecordsPinReadAndEvent :
    ∃ (s t : State) (i : Instr), fetch (nextInput s) = .ok i ∧ step s = .next t := by
  obtain ⟨s, t, h, h', _⟩ := steps_that_answer.2.2.1
  exact ⟨s, t, _, h, h'⟩

theorem witness_StepKeepsTheInvariant : ∃ s t : State, s.Inv ∧ step s = .next t := ⟨at' inMark, _, inMark_inv, rfl⟩

theorem witness_PhaseTakesOnlyTheListedTransitions :
    (∃ s t : State, exec .nop s = .next t ∧ s.block.phase = .space ∧ t.block.phase = .markHi) ∧
      (∃ s t : State, exec .nop s = .next t ∧ s.block.phase = .markHi ∧ t.block.phase = .markLo) ∧
      (∃ s t : State, exec .nop s = .next t ∧ t.block.phase = s.block.phase) :=
  ⟨⟨at' ⟨.space, 0, 3, -20, 1, false, false, false⟩, _, rfl, rfl, by decide⟩,
    ⟨at' { inMark with tmr := 1 }, _, rfl, rfl, rfl⟩, ⟨State.reset, _, rfl, rfl⟩⟩

/-- The selectors just below and above selector 3, and the two smallest invalid ones. -/
theorem witness_LookupReturnsTheSelectorsOwnTable :
    (∃ (sel : Byte) (n : Fin 12), sel.toNat = n.val + 1 ∧ n.val < 2 ∧ n.val < 11) ∧
      (∃ (sel : Byte) (n : Fin 12), sel.toNat = n.val + 1 ∧ 2 < n.val ∧ n.val - 1 < 11) ∧
      (∃ sel : Byte, sel.toNat = 0) ∧ (∃ sel : Byte, sel.toNat = 13) :=
  ⟨⟨2, 1, by decide⟩, ⟨4, 3, by decide⟩, ⟨0, rfl⟩, ⟨13, rfl⟩⟩

theorem witness_SelectorMapIsABijection : ∃ p : Params, p.Wf := ⟨Params.default, default_params_wf⟩

theorem witness_SelectorNamesDoNotChangeAnyStep : ∃ s t : State, step s = .next t := ⟨State.reset, _, rfl⟩

theorem witness_SelectorThreeFrameLasts45186Ticks : ∃ p : Params, p.ticksPerUs = 1 ∧ p.compTicks = 0 :=
  ⟨Params.default, rfl, rfl⟩

/-- The machine after reset with a request of selector 3, then a second request and a STATUS write during the frame. -/
def requesting : State := { State.reset with inputs := [⟨false, [0xC03]⟩, ⟨false, [0xC0D]⟩, ⟨false, [0xD0E]⟩] }

theorem requesting_meets_premises :
    requesting.params.Wf ∧ requesting.block.phase = .idle ∧ requesting.Requests 3 ∧ tableIndex? 3 = some 2 ∧
      requesting.Undisturbed (frameTicks requesting.params 2 + 1) := by
  refine ⟨default_params_wf, rfl, ⟨rfl, .txAOff, rfl, rfl⟩, by decide, ?_⟩
  intro h hm
  have hall : ∀ h ∈ requesting.inputs, h.Legal ∧ h.rst = false := by decide
  exact hall h (List.mem_of_mem_take hm)

theorem witness_AcceptedTransmissionShowsItsFrame :
    ∃ (s : State) (sel : Byte) (n : Fin 12), s.params.Wf ∧ s.block.phase = .idle ∧ s.Requests sel ∧
      tableIndex? sel = some n ∧ s.Undisturbed (frameTicks s.params n + 1) ∧ 1 ≤ frameTicks s.params n :=
  ⟨requesting, 3, 2, requesting_meets_premises.1, requesting_meets_premises.2.1, requesting_meets_premises.2.2.1,
    requesting_meets_premises.2.2.2.1, requesting_meets_premises.2.2.2.2, by decide⟩

theorem witness_BusyForExactlyTheFrame :
    ∃ (s : State) (sel : Byte) (n : Fin 12), s.params.Wf ∧ s.block.phase = .idle ∧ s.Requests sel ∧
      tableIndex? sel = some n ∧ s.Undisturbed (frameTicks s.params n + 1) :=
  ⟨requesting, 3, 2, requesting_meets_premises⟩

theorem witness_FrameEndsIdleWithDone :
    ∃ (s : State) (sel : Byte) (n : Fin 12), s.params.Wf ∧ s.block.phase = .idle ∧ s.Requests sel ∧
      tableIndex? sel = some n ∧ s.Undisturbed (frameTicks s.params n + 1) :=
  ⟨requesting, 3, 2, requesting_meets_premises⟩

theorem witness_EveryRunningFrameEnds :
    ∃ s : State, s.Inv ∧ s.block.phase ≠ .idle ∧ ∀ h ∈ s.inputs, h.Legal ∧ h.rst = false :=
  ⟨at' inMark, inMark_inv, by decide, by simp [at', State.reset]⟩

theorem witness_FrameStartForgetsEarlierFrames :
    ∃ (i : Instr) (sel : Byte) (n : Fin 12) (s s' t t' : State), i.selector? = some sel ∧ tableIndex? sel = some n ∧
      s.params = s'.params ∧ s.block.phase = .idle ∧ s'.block.phase = .idle ∧
      exec i s = .next t ∧ exec i s' = .next t' :=
  ⟨.txAOff, 3, 2, State.reset, at' flagged, _, _, rfl, by decide, rfl, rfl, rfl, rfl, rfl⟩

theorem witness_PseudoInstructionsExpand : selectorOf? Params.default .a .off = some 3 := by decide

end Sys2Proof.Tests
end

/-!
SUPPORT and proofs for 10_state.md: the reset values (R42) and what sets, keeps and clears the three stored flags of
STATUS (R27 to R29). Each flag gets one lemma over `exec`, by the cases of `exec_next`; `step_flag_iff` adds the reset
tick, which clears them all.
-/

namespace Sys2Proof.Machine

/-! ### The reset tick and the executed tick -/

/-- A step with `rst` = 1 leaves the block in its reset state; everything else is as for any tick. -/
theorem step_next_of_rst {s t : State} (hr : (nextInput s).rst = true) (h : step s = .next t) :
    ∃ r, t = s.consume.observe r none .reset := by
  obtain ⟨i, _, ⟨_, htick⟩ | ⟨hr', _⟩⟩ := step_next h
  · exact ⟨_, resetTick_next.1 htick⟩
  · simp [hr] at hr'

/-- A step with `rst` = 0 is the execution of the fetched instruction. -/
theorem exec_of_step_next {s t : State} {i : Instr} (hf : fetch (nextInput s) = .ok i)
    (hr : (nextInput s).rst = false) (h : step s = .next t) : exec i s.consume = .next t := by
  obtain ⟨j, hj, ⟨hr', _⟩ | ⟨_, hexec⟩⟩ := step_next h
  · simp [hr] at hr'
  · obtain rfl : i = j := by simpa [hf] using hj
    exact hexec

/-- A flag that is 0 in the reset state is 1 after a step exactly when `rst` was 0 and the instruction leaves it 1. -/
theorem step_flag_iff {s t : State} {i : Instr} {flag : Block → Bool} {Q : Prop} (hreset : flag .reset = false)
    (hf : fetch (nextInput s) = .ok i) (h : step s = .next t)
    (hexec : exec i s.consume = .next t → (flag t.block = true ↔ Q)) :
    flag t.block = true ↔ (nextInput s).rst = false ∧ Q := by
  cases hr : (nextInput s).rst with
  | true =>
    obtain ⟨r, rfl⟩ := step_next_of_rst hr h
    simp [hreset]
  | false => simpa using hexec (exec_of_step_next hf hr h)

/-! ### Operands -/

/-- A CMD write is no STATUS write. -/
theorem ne_wrStatus_of_selector? {i : Instr} {sel : Byte} (h : i.selector? = some sel) (d : Byte) :
    i ≠ .wrStatus d := by
  rintro rfl
  simp [Instr.selector?] at h

theorem selector?_wrStatus (d : Byte) : (Instr.wrStatus d).selector? = none := rfl

/-- The selectors with a table are 1 to 12 (30_encoding.md R75). -/
theorem valid_of_tableIndex? {sel : Byte} {n : Fin 12} (h : tableIndex? sel = some n) :
    1 ≤ sel.toNat ∧ sel.toNat ≤ 12 := by
  have := tableIndex?_eq_some.1 h
  omega

/-! ### DONE over the timing step -/

/-- Of a block of the invariant, the timing step sets DONE exactly at the end of the guard. -/
theorem advance_done_of_inv {p : Params} {b : Block} (h : b.Inv p) :
    (advance p b).done = (b.done || guardEnds b) := by
  by_cases hp : b.phase = .idle
  · simp [advance_idle hp, not_guardEnds_of_idle hp]
  · have : b.tmr ≠ 0 := fun h0 => hp (h.idle_iff.2 h0)
    exact advance_done (by omega)

/-! ### The three flags over one instruction -/

/-- ERR_SEL after an instruction: set by an invalid request in IDLE, else kept unless a STATUS write clears it. -/
theorem exec_errSel_iff {i : Instr} {s t : State} (h : exec i s = .next t) :
    t.block.errSel = true ↔
      (s.block.phase = .idle ∧ ∃ sel, i.selector? = some sel ∧ (sel.toNat = 0 ∨ 13 ≤ sel.toNat)) ∨
        (s.block.errSel = true ∧ ¬ ∃ d, i = .wrStatus d ∧ d.getLsbD 2 = true) := by
  obtain ⟨_, hadv, _, _⟩ := advance_frame s.params s.block
  rcases exec_next h with ⟨hi, hw, rfl⟩ | ⟨d, rfl, rfl⟩ | ⟨d, hi, hp, rfl⟩ | ⟨d, n, hi, hp, hn, rfl⟩ |
    ⟨d, hi, hp, hn, rfl⟩
  · -- no access, a read or an ignored write
    simp [hadv, hi, hw]
  · -- a STATUS write
    simp [hadv, selector?_wrStatus, clearMask]
  · -- an Overrun
    simp [hadv, hp, ne_wrStatus_of_selector? hi]
  · -- an accept
    obtain ⟨_, _, hacc, _⟩ := accept_frame s.params d s.block
    have hvalid : ¬ (d.toNat = 0 ∨ 13 ≤ d.toNat) := by have := valid_of_tableIndex? hn; omega
    simp [hacc, hi, hvalid, ne_wrStatus_of_selector? hi]
  · -- an InvalidSelector
    have hinvalid : d.toNat = 0 ∨ 13 ≤ d.toNat := tableIndex?_eq_none.1 hn
    simp [hp, hi, hinvalid]

/-- OVR after an instruction: set by a request in a frame, else kept unless a STATUS write clears it. -/
theorem exec_ovr_iff {i : Instr} {s t : State} (h : exec i s = .next t) :
    t.block.ovr = true ↔
      (s.block.phase ≠ .idle ∧ ∃ sel, i.selector? = some sel) ∨
        (s.block.ovr = true ∧ ¬ ∃ d, i = .wrStatus d ∧ d.getLsbD 3 = true) := by
  obtain ⟨_, _, hadv, _⟩ := advance_frame s.params s.block
  rcases exec_next h with ⟨hi, hw, rfl⟩ | ⟨d, rfl, rfl⟩ | ⟨d, hi, hp, rfl⟩ | ⟨d, n, hi, hp, hn, rfl⟩ |
    ⟨d, hi, hp, hn, rfl⟩
  · -- no access, a read or an ignored write
    simp [hadv, hi, hw]
  · -- a STATUS write
    simp [hadv, selector?_wrStatus, clearMask]
  · -- an Overrun
    simp [hp, hi]
  · -- an accept
    obtain ⟨_, _, _, hacc⟩ := accept_frame s.params d s.block
    simp [hacc, hp, ne_wrStatus_of_selector? hi]
  · -- an InvalidSelector
    simp [hp, ne_wrStatus_of_selector? hi]

/-- DONE after an instruction: set by the end of the guard, whatever the instruction is; else kept unless an accepted
request or a STATUS write clears it. -/
theorem exec_done_iff {i : Instr} {s t : State} (hinv : s.block.Inv s.params) (h : exec i s = .next t) :
    t.block.done = true ↔
      (s.block.phase = .guard ∧ s.block.tmr = 1) ∨
        (s.block.done = true ∧
          ¬ (s.block.phase = .idle ∧ ∃ sel, i.selector? = some sel ∧ 1 ≤ sel.toNat ∧ sel.toNat ≤ 12) ∧
          ¬ ∃ d, i = .wrStatus d ∧ d.getLsbD 1 = true) := by
  have hadv := advance_done_of_inv hinv
  rw [← guardEnds_iff]
  rcases exec_next h with ⟨hi, hw, rfl⟩ | ⟨d, rfl, rfl⟩ | ⟨d, hi, hp, rfl⟩ | ⟨d, n, hi, hp, hn, rfl⟩ |
    ⟨d, hi, hp, hn, rfl⟩
  · -- no access, a read or an ignored write
    simp [hadv, hi, hw, or_comm]
  · -- a STATUS write
    cases hg : guardEnds s.block <;> simp [hadv, hg, selector?_wrStatus, clearMask]
  · -- an Overrun
    simp [hadv, hp, ne_wrStatus_of_selector? hi, or_comm]
  · -- an accept
    obtain ⟨_, hacc, _, _⟩ := accept_frame s.params d s.block
    simp [hacc, hp, hi, not_guardEnds_of_idle hp, valid_of_tableIndex? hn]
  · -- an InvalidSelector
    have hinvalid : ¬ (1 ≤ d.toNat ∧ d.toNat ≤ 12) := by have := tableIndex?_eq_none.1 hn; omega
    simp [hi, hinvalid, not_guardEnds_of_idle hp, ne_wrStatus_of_selector? hi, -not_and]

/-! ### The obligations -/

/-- Settles O27: `exec_errSel_iff` for `rst` = 0, and reset clears the flag. -/
theorem errSelIsStickyAndSetByInvalidSelectorOnly : Obligations.ErrSelIsStickyAndSetByInvalidSelectorOnly :=
  fun _ _ _ hf h => step_flag_iff (flag := Block.errSel) rfl hf h exec_errSel_iff

/-- Settles O28: `exec_ovr_iff` for `rst` = 0, and reset clears the flag. -/
theorem ovrIsStickyAndSetByOverrunOnly : Obligations.OvrIsStickyAndSetByOverrunOnly :=
  fun _ _ _ hf h => step_flag_iff (flag := Block.ovr) rfl hf h exec_ovr_iff

/-- Settles O29: `exec_done_iff` for `rst` = 0, and reset clears the flag. -/
theorem doneIsSetByTheEndOfTheGuard : Obligations.DoneIsSetByTheEndOfTheGuard :=
  fun _ _ _ hinv hf h => step_flag_iff (flag := Block.done) rfl hf h (exec_done_iff hinv.block)

/-- Settles O1: the listed values by evaluation of the reset block, the last clause by `step_next_of_rst`. -/
theorem resetStateHoldsTheListedValues : Obligations.ResetStateHoldsTheListedValues := by
  refine ⟨rfl, rfl, rfl, rfl, rfl, rfl, rfl, rfl, rfl, rfl, rfl, rfl, rfl, ?_⟩
  intro s t hr h
  obtain ⟨r, rfl⟩ := step_next_of_rst hr h
  exact ⟨observe_block .., fun a => by simp⟩

end Sys2Proof.Machine

/-!
SUPPORT and proofs for 20_memory.md: the ROM and the other parameters are the same after every step (R53). The reset tick
and every instruction end in one `observe`, which writes the block and the history and nothing else.
-/

namespace Sys2Proof.Machine

/-! ### The frame of a step -/

/-- Whatever an instruction does, it ends the tick with `observe`: it writes the block and the history only. -/
theorem exec_observes {i : Instr} {s t : State} (h : exec i s = .next t) : ∃ r e b, t = s.observe r e b := by
  rcases exec_next h with ⟨_, _, ht⟩ | ⟨_, _, ht⟩ | ⟨_, _, _, ht⟩ | ⟨_, _, _, _, _, ht⟩ | ⟨_, _, _, _, ht⟩ <;>
    exact ⟨_, _, _, ht⟩

/-- A step uses up the host's input of the tick and ends with `observe`, whether `rst` is 1 or 0. -/
theorem step_observes {s t : State} (h : step s = .next t) : ∃ r e b, t = s.consume.observe r e b := by
  obtain ⟨i, _, ⟨_, hreset⟩ | ⟨_, hexec⟩⟩ := step_next h
  · exact ⟨_, _, _, resetTick_next.1 hreset⟩
  · exact exec_observes hexec

theorem step_params {s t : State} (h : step s = .next t) : t.params = s.params := by
  obtain ⟨r, e, b, rfl⟩ := step_observes h
  rw [observe_params, consume_params]

/-! ### The obligation -/

/-- Settles O31: a step keeps the parameters (`step_params`), and the ROM is read from them alone. -/
theorem noStepChangesTheRom : Obligations.NoStepChangesTheRom := by
  intro s t h
  have hparams : t.params = s.params := step_params h
  exact ⟨fun a => by rw [hparams], hparams⟩

end Sys2Proof.Machine

/-!
SUPPORT and proofs for 30_encoding.md: the fields of a bus word (R70 to R76), the rows of the opcode table (R79), the
ROM's layout (R78) and the pseudo-instructions (R84). A word with V = 1 is `busWord` of its fields, so what the decoder
reads is stated over `busWord`; `decodeTx_eq_iff` is all there is to say of a CMD write's row.
-/

namespace Sys2Proof.Machine

/-! ### The ROM -/

/-- The entry at an even address within table `n` is a mark, the one after it the space of the same pair. -/
theorem romEntry_of_pair {p : Params} {a : Fin 336} {n : Fin 12} {i : Fin 14} (hn : a.val / 28 = n.val)
    (hi : a.val % 28 / 2 = i.val) :
    romEntry p a = if a.val % 2 = 0 then (pulseTable p n)[i].mark else (pulseTable p n)[i].space := by
  obtain ⟨n, _⟩ := n
  obtain ⟨i, _⟩ := i
  subst hn hi
  rfl

theorem mark_eq_pulseTable (p : Params) (n : Fin 12) (i : Fin 14) : mark p n i = (pulseTable p n)[i].mark := by
  have haddr : (markAddr n i).val = 28 * n.val + 2 * i.val := rfl
  rw [mark, memRead, romEntry_of_pair (n := n) (i := i) (by omega) (by omega), if_pos (by omega)]

theorem space_eq_pulseTable (p : Params) (n : Fin 12) (i : Fin 14) : space p n i = (pulseTable p n)[i].space := by
  have haddr : (spaceAddr n i).val = 28 * n.val + 2 * i.val + 1 := rfl
  rw [space, memRead, romEntry_of_pair (n := n) (i := i) (by omega) (by omega), if_neg (by omega)]

/-- Settles O35: the two addresses are `markAddr` and `spaceAddr`, where `mark` and `space` read. -/
theorem romHoldsTheTablesAtTheirAddresses : Obligations.RomHoldsTheTablesAtTheirAddresses :=
  ⟨fun p n i => ⟨mark_eq_pulseTable p n i, space_eq_pulseTable p n i, rfl, rfl⟩, rfl, rfl, rfl⟩

/-! ### Words and their fields -/

theorem fieldV_toNat (w : BusWord) : (fieldV w).toNat = w.toNat / 2048 % 2 := Nat.toNat_testBit ..

theorem fieldWE_toNat (w : BusWord) : (fieldWE w).toNat = w.toNat / 1024 % 2 := Nat.toNat_testBit ..

theorem fieldA_toNat (w : BusWord) : (fieldA w).toNat = w.toNat / 256 % 4 := by
  simp [fieldA, Nat.shiftRight_eq_div_pow]

theorem fieldD_toNat (w : BusWord) : (fieldD w).toNat = w.toNat % 256 := by
  simp [fieldD]

theorem busWord_toNat (we : Bool) (a : RegAddr) (d : Byte) :
    (busWord we a d).toNat = 2048 + 1024 * we.toNat + 256 * a.toNat + d.toNat := by
  have hwe : (BitVec.ofBool we).toNat = we.toNat := by cases we <;> rfl
  simp only [busWord, BitVec.toNat_append, hwe]
  rw [← Nat.shiftLeft_add_eq_or_of_lt d.isLt, ← Nat.shiftLeft_add_eq_or_of_lt a.isLt,
    ← Nat.shiftLeft_add_eq_or_of_lt we.toNat_lt]
  simp only [Nat.shiftLeft_eq, BitVec.toNat_ofNat]
  omega

/-- A word with V = 1 is the word of its other fields (30_encoding.md R70). -/
theorem eq_busWord_of_fieldV {w : BusWord} (h : fieldV w = true) :
    w = busWord (fieldWE w) (fieldA w) (fieldD w) := by
  have hv := fieldV_toNat w
  apply BitVec.eq_of_toNat_eq
  simp only [h, Bool.toNat_true, busWord_toNat, fieldWE_toNat, fieldA_toNat, fieldD_toNat] at hv ⊢
  omega

/-- The 256 words from `busWord we a 0` on are the words with that WE and A, in the order of D. -/
theorem eq_busWord_of_range {w : BusWord} {we : Bool} {a : RegAddr} {base : Nat}
    (hbase : 2048 + 1024 * we.toNat + 256 * a.toNat = base) (hlo : base ≤ w.toNat) (hhi : w.toNat ≤ base + 255) :
    w = busWord we a (BitVec.ofNat 8 (w.toNat - base)) := by
  apply BitVec.eq_of_toNat_eq
  rw [busWord_toNat, BitVec.toNat_ofNat]
  omega

@[simp] theorem fieldV_busWord (we : Bool) (a : RegAddr) (d : Byte) : fieldV (busWord we a d) = true := by
  have hwe := we.toNat_le
  apply Bool.toNat_eq_one.1
  rw [fieldV_toNat, busWord_toNat]
  omega

@[simp] theorem fieldWE_busWord (we : Bool) (a : RegAddr) (d : Byte) : fieldWE (busWord we a d) = we := by
  have hwe : (fieldWE (busWord we a d)).toNat = we.toNat := by
    have hle := we.toNat_le
    rw [fieldWE_toNat, busWord_toNat]
    omega
  cases we with
  | false => exact Bool.toNat_eq_zero.1 hwe
  | true => exact Bool.toNat_eq_one.1 hwe

@[simp] theorem fieldA_busWord (we : Bool) (a : RegAddr) (d : Byte) : fieldA (busWord we a d) = a := by
  apply BitVec.eq_of_toNat_eq
  rw [fieldA_toNat, busWord_toNat]
  omega

@[simp] theorem fieldD_busWord (we : Bool) (a : RegAddr) (d : Byte) : fieldD (busWord we a d) = d := by
  apply BitVec.eq_of_toNat_eq
  rw [fieldD_toNat, busWord_toNat]
  omega

/-! ### What the decoder reads -/

theorem decodeWord_noAccess {w : BusWord} (h : fieldV w = false) : decodeWord w = .nop := by simp [decodeWord, h]

theorem decodeWord_read (a : RegAddr) (d : Byte) : decodeWord (busWord false a d) = decodeRead a := by
  simp [decodeWord]

theorem decodeWord_write (a : RegAddr) (d : Byte) : decodeWord (busWord true a d) = decodeWrite a d := by
  simp [decodeWord]

/-- A write to address 0 is a CMD write. -/
theorem decodeWrite_cmd (d : Byte) : decodeWrite 0 d = decodeTx d := rfl

/-- The instruction of a CMD write names the selector written and is well formed. -/
theorem decodeTx_spec (d : Byte) : (decodeTx d).selector? = some d ∧ (decodeTx d).WellFormed := by
  unfold decodeTx
  split
  case h_17 =>
    -- a range of selectors
    split_ifs <;> simp [Instr.selector?, Instr.WellFormed, Instr.wellFormed] <;> grind
  -- a selector with a row of its own
  all_goals simp [Instr.selector?, Instr.WellFormed, Instr.wellFormed, ← BitVec.toNat_inj, *]

/-- From selector 16 on, the row of a CMD write is that of its range (30_encoding.md R79). -/
theorem decodeTx_of_16_le {d : Byte} (h : 16 ≤ d.toNat) :
    decodeTx d =
      if d.toNat < 32 then .txInvalid16To31 d
      else if d.toNat < 64 then .txInvalid32To63 d
      else if d.toNat < 128 then .txInvalid64To127 d
      else .txInvalid128To255 d := by
  unfold decodeTx
  split
  case h_17 => rfl
  all_goals omega

/-- A well-formed instruction that names a selector is the one a CMD write of it decodes to. -/
theorem decodeTx_of_selector? {d : Byte} {i : Instr} (hsel : i.selector? = some d) (hwf : i.WellFormed) :
    decodeTx d = i := by
  cases i <;> simp only [Instr.selector?, Option.some.injEq, reduceCtorEq] at hsel <;> subst hsel
  case txInvalid16To31 | txInvalid32To63 | txInvalid64To127 | txInvalid128To255 =>
    simp only [Instr.WellFormed, Instr.wellFormed, Bool.and_eq_true, decide_eq_true_eq] at hwf
    grind [decodeTx_of_16_le]
  all_goals rfl

/-- The instructions of CMD writes are the well-formed ones that name a selector, one for each selector. -/
theorem decodeTx_eq_iff {d : Byte} {i : Instr} : decodeTx d = i ↔ i.selector? = some d ∧ i.WellFormed :=
  ⟨fun h => h ▸ decodeTx_spec d, fun ⟨hsel, hwf⟩ => decodeTx_of_selector? hsel hwf⟩

/-! ### The obligations on ranges and selectors -/

/-- Settles O7: `tableIndex?` by its law, the decoded rows by the selectors they name (`decodeTx_eq_iff`). -/
theorem validSelectorsAreThoseOfTheTxRows : Obligations.ValidSelectorsAreThoseOfTheTxRows := by
  intro d
  refine ⟨⟨?_, ?_⟩, ?_, ?_⟩
  · rintro ⟨n, hn⟩
    exact valid_of_tableIndex? hn
  · intro h
    exact ⟨⟨d.toNat - 1, by omega⟩, tableIndex?_eq_some.2 (by simp only; omega)⟩
  all_goals
    simp only [List.mem_cons, List.not_mem_nil, or_false, decodeTx_eq_iff, Instr.selector?, Instr.WellFormed,
      Instr.wellFormed, Option.some.injEq, ← BitVec.toNat_inj, BitVec.toNat_ofNat, Nat.reducePow, Nat.reduceMod,
      BitVec.ofNat_eq_ofNat, Bool.and_eq_true, decide_eq_true_eq, and_true, true_and]
    omega

/-- A word of the 256 reads of address `a` decodes to that read (30_encoding.md R72). -/
theorem decodeWord_of_readRange {w : BusWord} (a : RegAddr) {base : Nat} (hbase : 2048 + 256 * a.toNat = base)
    (h : base ≤ w.toNat ∧ w.toNat ≤ base + 255) : decodeWord w = decodeRead a :=
  (congrArg decodeWord (eq_busWord_of_range (we := false) hbase h.1 h.2)).trans (decodeWord_read ..)

/-- A word of the 256 writes to address `a` decodes to the write of its low byte (30_encoding.md R73). -/
theorem decodeWord_of_writeRange {w : BusWord} (a : RegAddr) {base : Nat} (hbase : 3072 + 256 * a.toNat = base)
    (h : base ≤ w.toNat ∧ w.toNat ≤ base + 255) :
    decodeWord w = decodeWrite a (BitVec.ofNat 8 (w.toNat - base)) :=
  (congrArg decodeWord (eq_busWord_of_range (we := true) hbase h.1 h.2)).trans (decodeWord_write ..)

/-- Settles O6: each range is that of one address, read or written. -/
theorem readAndWriteWordsCoverTheirRanges : Obligations.ReadAndWriteWordsCoverTheirRanges := by
  refine ⟨fun w => ⟨?_, ?_, ?_, ?_, ?_, ?_, ?_, ?_⟩, rfl, rfl, rfl, rfl⟩
  · exact decodeWord_of_readRange 0 rfl
  · exact decodeWord_of_readRange 1 rfl
  · exact decodeWord_of_readRange 2 rfl
  · exact decodeWord_of_readRange 3 rfl
  · intro h
    rw [decodeWord_of_writeRange 0 rfl h, decodeWrite_cmd]
    exact (decodeTx_spec _).1
  · exact decodeWord_of_writeRange 1 rfl
  · exact decodeWord_of_writeRange 2 rfl
  · exact decodeWord_of_writeRange 3 rfl

/-! ### The rows of the opcode table -/

theorem accepts_iff {r : OpcodeRow} {w : BusWord} : r.accepts w = true ↔ w &&& r.mask = r.pattern := beq_iff_eq

/-- Any two rows differ in a bit that both fix, seen by masking each pattern with the other's mask. -/
theorem opcodeRows_pairwise_conflict :
    opcodeRows.Pairwise fun r r' => r.pattern &&& r'.mask ≠ r'.pattern &&& r.mask := by decide

/-- Rows that accept one word do not conflict. -/
theorem masked_pattern_comm_of_accepts {r r' : OpcodeRow} {w : BusWord} (h : r.accepts w = true)
    (h' : r'.accepts w = true) : r.pattern &&& r'.mask = r'.pattern &&& r.mask := by
  rw [← accepts_iff.1 h, ← accepts_iff.1 h', BitVec.and_assoc, BitVec.and_assoc, BitVec.and_comm r.mask]

theorem opcodeRow_mem (i : Instr) : opcodeRow i ∈ opcodeRows := by
  cases i <;> simp [opcodeRows, opcodeRow]

/-- A row of the table that accepts a word is the only one. -/
theorem filter_accepts_eq {r : OpcodeRow} {w : BusWord} (hmem : r ∈ opcodeRows) (h : r.accepts w = true) :
    opcodeRows.filter (fun r => r.accepts w) = [r] := by
  have hr : r ∈ opcodeRows.filter (fun r => r.accepts w) := List.mem_filter.2 ⟨hmem, h⟩
  have hacc : ∀ r' ∈ opcodeRows.filter (fun r => r.accepts w), r'.accepts w = true :=
    fun _ hr' => (List.mem_filter.1 hr').2
  have hpair := opcodeRows_pairwise_conflict.filter (fun r => r.accepts w)
  generalize opcodeRows.filter (fun r => r.accepts w) = l at hr hacc hpair
  match l with
  | [] => simp at hr
  | [_] => rw [List.mem_singleton.1 hr]
  | x :: y :: _ =>
    have hconflict := (List.pairwise_cons.1 hpair).1 y (by simp)
    exact absurd (masked_pattern_comm_of_accepts (hacc x (by simp)) (hacc y (by simp))) hconflict

/-! ### The row of the decoded instruction -/

theorem regAddr_cases (a : RegAddr) : a = 0 ∨ a = 1 ∨ a = 2 ∨ a = 3 := by
  revert a
  decide

theorem rowMatch_statement (i : Instr) : Laws.RowMatch.Statement i := by
  cases i
  exacts [Laws.RowMatch.nop, Laws.RowMatch.rdCmd, Laws.RowMatch.rdStatus, Laws.RowMatch.rdPhase, Laws.RowMatch.rdRsvd,
    Laws.RowMatch.txAPlus, Laws.RowMatch.txAMinus, Laws.RowMatch.txAOff, Laws.RowMatch.txBPlus,
    Laws.RowMatch.txBMinus, Laws.RowMatch.txBOff, Laws.RowMatch.txCPlus, Laws.RowMatch.txCMinus,
    Laws.RowMatch.txCOff, Laws.RowMatch.txDPlus, Laws.RowMatch.txDMinus, Laws.RowMatch.txDOff,
    Laws.RowMatch.txInvalid0, Laws.RowMatch.txInvalid13, Laws.RowMatch.txInvalid14, Laws.RowMatch.txInvalid15,
    Laws.RowMatch.txInvalid16To31 _, Laws.RowMatch.txInvalid32To63 _, Laws.RowMatch.txInvalid64To127 _,
    Laws.RowMatch.txInvalid128To255 _, Laws.RowMatch.wrStatus _, Laws.RowMatch.wrPhase _, Laws.RowMatch.wrRsvd _]

/-- An instruction that names a selector is encoded as the CMD write of it. -/
theorem encode_of_selector? {i : Instr} {d : Byte} (h : i.selector? = some d) : encode i = busWord true 0 d := by
  cases i <;> simp only [Instr.selector?, Option.some.injEq, reduceCtorEq] at h <;> subst h <;> rfl

/-- A decoded write is well formed and encoded back to its word: a write word has no ignored bits. -/
theorem decodeWrite_spec (a : RegAddr) (d : Byte) :
    (decodeWrite a d).WellFormed ∧ encode (decodeWrite a d) = busWord true a d := by
  rcases regAddr_cases a with rfl | rfl | rfl | rfl
  · rw [decodeWrite_cmd]
    obtain ⟨hsel, hwf⟩ := decodeTx_spec d
    exact ⟨hwf, encode_of_selector? hsel⟩
  all_goals exact ⟨rfl, rfl⟩

/-- Masking off D leaves V, WE and A. -/
theorem busWord_and_mask (we : Bool) (a : RegAddr) (d : Byte) : busWord we a d &&& 0xF00 = busWord we a 0 :=
  calc (1#1 ++ BitVec.ofBool we ++ a) ++ d &&& BitVec.allOnes 4 ++ 0#8
    _ = ((1#1 ++ BitVec.ofBool we ++ a) &&& BitVec.allOnes 4) ++ (d &&& 0#8) := BitVec.and_append
    _ = (1#1 ++ BitVec.ofBool we ++ a) ++ 0#8 := by rw [BitVec.and_allOnes, BitVec.and_zero]

/-- A decoded read is well formed, and its row accepts the word whatever the ignored D is. -/
theorem decodeRead_spec (a : RegAddr) (d : Byte) :
    (decodeRead a).WellFormed ∧ (opcodeRow (decodeRead a)).accepts (busWord false a d) = true := by
  simp only [accepts_iff]
  rcases regAddr_cases a with rfl | rfl | rfl | rfl
  all_goals exact ⟨rfl, busWord_and_mask ..⟩

/-- The NOP row fixes bit 11 alone. -/
theorem nopRow_accepts {w : BusWord} (h : fieldV w = false) : (opcodeRow .nop).accepts w = true :=
  accepts_iff.2 ((BitVec.and_twoPow w 11).trans (if_neg (Bool.eq_false_iff.1 h)))

/-- A decoded instruction is well formed, and its row accepts the word. -/
theorem decodeWord_spec (w : BusWord) :
    (decodeWord w).WellFormed ∧ (opcodeRow (decodeWord w)).accepts w = true := by
  cases hv : fieldV w with
  | false =>
    rw [decodeWord_noAccess hv]
    exact ⟨rfl, nopRow_accepts hv⟩
  | true =>
    rw [eq_busWord_of_fieldV hv]
    cases fieldWE w with
    | false =>
      rw [decodeWord_read]
      exact decodeRead_spec ..
    | true =>
      rw [decodeWord_write]
      obtain ⟨hwf, henc⟩ := decodeWrite_spec (fieldA w) (fieldD w)
      exact ⟨hwf, henc ▸ rowMatch_statement _ hwf⟩

/-- Settles O5: the decoded instruction's row accepts the word, and no two rows of the table accept one word. -/
theorem everyWordMatchesExactlyItsDecodedRow : Obligations.EveryWordMatchesExactlyItsDecodedRow := by
  intro w
  obtain ⟨hwf, hacc⟩ := decodeWord_spec w
  exact ⟨filter_accepts_eq (opcodeRow_mem _) hacc, hwf⟩

/-! ### The pseudo-instructions -/

/-- A named request is the CMD write of the selector SEL_MAP gives the name. -/
theorem assembleOp_txName {p : Params} {ch : Channel} {cmd : Command} {sel : Byte}
    (h : selectorOf? p ch cmd = some sel) : assembleOp p (.txName ch cmd) = assembleOp p (.wr .cmd sel) := by
  simp [assembleOp, h]

/-- Settles O50: `assembleOp_txName` for the names; the other lines are the assembler's own equations. -/
theorem pseudoInstructionsExpand : Obligations.PseudoInstructionsExpand :=
  fun _ _ _ => ⟨rfl, fun _ _ _ h => assembleOp_txName h, rfl, rfl, rfl, rfl, rfl, rfl⟩

end Sys2Proof.Machine

/-!
SUPPORT and proofs for 41_pulse_table.md: LOOKUP through the ROM gives back the selector's own table (R100, R107), and
the table of selector 3 is the source's (R103).
-/

namespace Sys2Proof.Machine

/-! ### LOOKUP -/

/-- The pair indices run through a table of pairs from its first to its last. -/
theorem pairIndices_map_getElem (v : PulseTable) : (pairIndices.map fun i => v[i]) = v.toList := by
  apply List.ext_getElem
  · simp [pairIndices]
  · intro k hk _
    have hall : pairIndices = List.finRange 14 := rfl
    simp [hall]

/-- LOOKUP of a selector that has a table gives that table: each mark and space is read back from where the ROM holds
it. -/
theorem lookup_of_table {p : Params} {sel : Byte} {n : Fin 12} (h : tableIndex? sel = some n) :
    lookup p sel = some (pulseTable p n).toList := by
  simp only [lookup, h, Option.map_some, mark_eq_pulseTable, space_eq_pulseTable, pairIndices_map_getElem]

/-! ### The table of selector 3 -/

/-- The open parameters do not reach the table of selector 3. -/
theorem pulseTable_two (p : Params) : pulseTable p 2 = selector3Table := rfl

/-- Settles O37: `lookup_of_table` at selector 3, whose table has place 2; the addresses by evaluation. -/
theorem selectorThreeHasTheSourcesTable : Obligations.SelectorThreeHasTheSourcesTable := by
  refine ⟨fun p => ?_, rfl⟩
  have hplace : tableIndex? 3 = some 2 := tableIndex?_eq_some.2 rfl
  rw [lookup_of_table hplace, pulseTable_two]
  rfl

end Sys2Proof.Machine

/-!
SUPPORT and proof for 42_carrier_modulator.md: within a frame the timing step alone writes the sequencer, so no operation
changes when a mark, a space or the guard ends (R130).
-/

namespace Sys2Proof.Machine

/-- The sequencer after an instruction in a busy state is the timing step's: nothing of it depends on the instruction. -/
theorem exec_sequencer_of_busy {i : Instr} {s t : State} (hbusy : s.block.phase ≠ .idle) (h : exec i s = .next t) :
    t.block.phase = (advance s.params s.block).phase ∧ t.block.idx = (advance s.params s.block).idx ∧
      t.block.selR = (advance s.params s.block).selR ∧ t.block.ctr = (advance s.params s.block).ctr ∧
      t.block.tmr = (advance s.params s.block).tmr := by
  rcases exec_next h with ⟨_, _, rfl⟩ | ⟨d, _, rfl⟩ | ⟨d, _, _, rfl⟩ | ⟨_, _, _, hidle, _⟩ | ⟨_, _, hidle, _⟩
  · -- no access, a read or an ignored write
    simp
  · -- a STATUS write
    simp
  · -- an Overrun
    simp
  · -- an accept
    exact absurd hidle hbusy
  · -- an InvalidSelector
    exact absurd hidle hbusy

/-- Settles O26: `exec_sequencer_of_busy` for the instruction and for NOP. -/
theorem noOperationDisturbsARunningFrame : Obligations.NoOperationDisturbsARunningFrame := by
  intro i s t u hbusy ht hu
  obtain ⟨hphase, hidx, hselR, hctr, htmr⟩ := exec_sequencer_of_busy hbusy ht
  obtain ⟨hphase', hidx', hselR', hctr', htmr'⟩ := exec_sequencer_of_busy hbusy hu
  exact ⟨hphase.trans hphase'.symm, hidx.trans hidx'.symm, hselR.trans hselR'.symm, hctr.trans hctr'.symm,
    htmr.trans htmr'.symm⟩

end Sys2Proof.Machine

/-!
SUPPORT and proofs for 44_transmission_engine.md: how long a segment lasts and what follows it (R191, R192), and what a
CMD write does from IDLE (R161, R162) and during a frame (R163). A CMD write is judged by its selector and the phase
alone, so each of the three gets one lemma for every instruction that names a selector.
-/

namespace Sys2Proof.Machine

/-! ### The length of a segment -/

/-- Within a segment every tick only counts `tmr` down (R191). -/
theorem advance_iterate_of_le {p : Params} {b : Block} {n : Nat} (hp : b.phase ≠ .idle) (ht : b.tmr = n + 1) :
    ∀ k, k ≤ n → (advance p)^[k] b = { b with tmr := n + 1 - k } := by
  intro k
  induction k with
  | zero =>
    intro _
    simp [← ht]
  | succ k ih =>
    intro hk
    have hleft : 2 ≤ n + 1 - k := by omega
    rw [Function.iterate_succ_apply', ih (by omega),
      advance_count (b := { b with tmr := n + 1 - k }) hp hleft, Nat.sub_sub]

/-- A segment entered with `tmr` = `n + 1` ends in its tick `n + 1` (R191). -/
theorem advance_iterate_last {p : Params} {b : Block} {n : Nat} (hp : b.phase ≠ .idle) (ht : b.tmr = n + 1) :
    (advance p)^[n + 1] b = segmentEnd p { b with tmr := 0 } := by
  have hlast : n + 1 - n = 1 := by omega
  rw [Function.iterate_succ_apply', advance_iterate_of_le hp ht n le_rfl, hlast,
    advance_last (b := { b with tmr := 1 }) hp rfl]

/-- Settles O15: `advance_idle`, `advance_count` and `advance_last` for one tick, their iterates for a whole segment. -/
theorem advanceCountsTheSegmentDown : Obligations.AdvanceCountsTheSegmentDown :=
  fun _ _ => ⟨advance_idle, advance_count, advance_last,
    fun hp _ ht => ⟨advance_iterate_of_le hp ht, advance_iterate_last hp ht⟩⟩

/-! ### The end of a segment -/

theorem segmentEnd_markHi {p : Params} {b : Block} (h : b.phase = .markHi) : segmentEnd p b = enterLow p b := by
  simp [segmentEnd, h]

theorem segmentEnd_markLo {p : Params} {b : Block} (h : b.phase = .markLo) :
    segmentEnd p b =
      if 0 < b.ctr - 26 then enterHigh p { b with ctr := b.ctr - 26 }
      else enterSpace p b.idx { b with ctr := b.ctr - 26 } := by
  simp [segmentEnd, h]

theorem segmentEnd_space {p : Params} {b : Block} (h : b.phase = .space) : segmentEnd p b = enterNext p b.idx b := by
  simp [segmentEnd, h]

theorem segmentEnd_guard {p : Params} {b : Block} (h : b.phase = .guard) :
    segmentEnd p b = { b with phase := .idle, tmr := 0, done := true } := by
  simp [segmentEnd, h]

/-- Settles O16: with `tmr` = 1 the timing step is the segment's end (`advance_last`), which the phase decides. -/
theorem endOfASegmentEntersTheNext : Obligations.EndOfASegmentEntersTheNext := by
  intro p b ht
  have hend : ∀ {q : Phase}, b.phase = q → q ≠ .idle → advance p b = segmentEnd p { b with tmr := 0 } :=
    fun hp hq => advance_last (hp ▸ hq) ht
  refine ⟨fun hp => ?_, fun hp hc => ?_, fun hp hc => ?_, fun hp => ?_, fun hp => ?_⟩
  · exact (hend hp nofun).trans (segmentEnd_markHi hp)
  · exact ((hend hp nofun).trans (segmentEnd_markLo hp)).trans (if_pos hc)
  · exact ((hend hp nofun).trans (segmentEnd_markLo hp)).trans (if_neg hc.not_gt)
  · exact (hend hp nofun).trans (segmentEnd_space hp)
  · exact (hend hp nofun).trans (segmentEnd_guard hp)

/-! ### A CMD write by selector and phase -/

/-- A tick that starts in IDLE records a low pin. -/
theorem observe_of_idle {s : State} (hidle : s.block.phase = .idle) (r : Option Byte) (e : Option ErrorEvent)
    (b : Block) : s.observe r e b = { s with block := b, history := ⟨false, r, e⟩ :: s.history } := by
  have hpin : irOut s.block = false := by simp [irOut, hidle]
  rw [State.observe, hpin]

/-- From IDLE a CMD write of a valid selector is accepted (R161). -/
theorem exec_accept {i : Instr} {d : Byte} {s : State} (hsel : i.selector? = some d)
    (hvalid : 1 ≤ d.toNat ∧ d.toNat ≤ 12) (hidle : s.block.phase = .idle) :
    exec i s = .next { s with block := accept s.params d s.block, history := ⟨false, none, none⟩ :: s.history } := by
  have htable : tableIndex? d = some ⟨d.toNat - 1, by omega⟩ := tableIndex?_eq_some.2 (by simp only; omega)
  rw [exec_cmd s hsel, cmdTick_accept hidle htable, tick, advance_idle hidle, observe_of_idle hidle]

/-- From IDLE a CMD write of any other selector raises InvalidSelector (R162). -/
theorem exec_invalid {i : Instr} {d : Byte} {s : State} (hsel : i.selector? = some d)
    (hinvalid : d.toNat = 0 ∨ 13 ≤ d.toNat) (hidle : s.block.phase = .idle) :
    exec i s = .next
      { s with
        block := { s.block with errSel := true }
        history := ⟨false, none, some (.invalidSelector d)⟩ :: s.history } := by
  rw [exec_cmd s hsel, cmdTick_invalid hidle (tableIndex?_eq_none.2 hinvalid), tick, advance_idle hidle,
    observe_of_idle hidle, raiseEvent]

/-- During a frame a CMD write of any selector raises Overrun beside the timing step (R163). -/
theorem exec_overrun {i : Instr} {d : Byte} {s : State} (hsel : i.selector? = some d) (hbusy : s.block.phase ≠ .idle) :
    exec i s = .next
      { s with
        block := { advance s.params s.block with ovr := true }
        history := ⟨s.block.phase == .markHi, none, some (.overrun d)⟩ :: s.history } := by
  rw [exec_cmd s hsel, cmdTick_busy hbusy]
  rfl

/-- Entering pairs always begins a mark, a space or the guard. -/
theorem enterPairs_phase_ne_idle (p : Params) (is : List (Fin 14)) (b : Block) :
    (enterPairs p is b).phase ≠ .idle := by
  rcases enterPairs_cases p is b with ⟨_, _, _, h⟩ | ⟨_, _, _, _, h⟩ | ⟨_, h⟩ <;> simp [h]

/-- After an accepted request the block is busy, whatever the table holds (R161). -/
theorem accept_phase_ne_idle (p : Params) (d : Byte) (b : Block) : (accept p d b).phase ≠ .idle :=
  enterPairs_phase_ne_idle _ _ _

/-! ### The obligations on CMD writes -/

/-- Settles O21: each of the twelve rows names a valid selector, so `exec_accept` gives the next state; what accepting
leaves alone is `accept_frame`. -/
theorem validRequestFromIdleIsAccepted : Obligations.ValidRequestFromIdleIsAccepted := by
  intro r hr
  obtain ⟨hsel, hnum, hvalid⟩ : r.1.selector? = some (BitVec.ofNat 8 r.2) ∧ (BitVec.ofNat 8 r.2).toNat = r.2 ∧
      1 ≤ r.2 ∧ r.2 ≤ 12 := by
    revert r
    decide
  intro s hidle
  obtain ⟨hselR, hdone, herr, hovr⟩ := accept_frame s.params (BitVec.ofNat 8 r.2) s.block
  exact ⟨_, rfl, exec_accept hsel (hnum.symm ▸ hvalid) hidle, (congrArg BitVec.toNat hselR).trans hnum, hdone, herr,
    hovr, accept_phase_ne_idle _ _ _⟩

/-- The eight TX_INVALID rows hold a selector outside 1 to 12 (30_encoding.md R79). -/
theorem invalid_of_selector?_txInvalid {sel : Byte} {i : Instr}
    (hi : i ∈ [Instr.txInvalid0, .txInvalid13, .txInvalid14, .txInvalid15, .txInvalid16To31 sel, .txInvalid32To63 sel,
      .txInvalid64To127 sel, .txInvalid128To255 sel]) (hwf : i.WellFormed) :
    ∃ d : Byte, i.selector? = some d ∧ (d.toNat = 0 ∨ 13 ≤ d.toNat) := by
  simp only [List.mem_cons, List.not_mem_nil, or_false] at hi
  obtain rfl | rfl | rfl | rfl | hrange := hi
  · exact ⟨0, rfl, by decide⟩
  · exact ⟨13, rfl, by decide⟩
  · exact ⟨14, rfl, by decide⟩
  · exact ⟨15, rfl, by decide⟩
  · -- a row of a range: the check bounds the selector it holds
    have hsel : i.selector? = some sel := by rcases hrange with rfl | rfl | rfl | rfl <;> rfl
    have hlow : 16 ≤ sel.toNat := by
      rcases hrange with rfl | rfl | rfl | rfl <;> simp [Instr.WellFormed, Instr.wellFormed] at hwf <;> omega
    exact ⟨sel, hsel, by omega⟩

/-- Settles O22: the rows hold an invalid selector, so `exec_invalid` gives the next state. -/
theorem invalidRequestFromIdleSetsOnlyErrSel : Obligations.InvalidRequestFromIdleSetsOnlyErrSel := by
  intro sel i hi hwf
  obtain ⟨d, hsel, hinvalid⟩ := invalid_of_selector?_txInvalid hi hwf
  exact ⟨d, hsel, hinvalid, fun _ => exec_invalid hsel hinvalid⟩

/-- Settles O23: `exec_overrun` for the CMD write; NOP is the timing step alone (`exec_other`). -/
theorem requestDuringAFrameSetsOnlyOvr : Obligations.RequestDuringAFrameSetsOnlyOvr :=
  fun _ _ s hsel hbusy => ⟨exec_overrun hsel hbusy, exec_other (i := .nop) s rfl nofun⟩

end Sys2Proof.Machine

/-!
SUPPORT and proofs for 45_register_access.md: the ignored accesses (R206, R208, R209), the value of each read (R201 to
R205) and the STATUS write (R207). Whatever is no CMD and no STATUS write is the timing step with a record
(`exec_other`), so what is left to say is what the read values are as numbers and what the clear mask does to a block.
-/

namespace Sys2Proof.Machine

/-! ### NOP and the ignored writes -/

/-- Settles O18: none of the three writes CMD or STATUS or reads a register, so `exec_other` gives the next state. -/
theorem nopAndIgnoredWritesOnlyAdvance : Obligations.NopAndIgnoredWritesOnlyAdvance := by
  intro s d i hi
  simp only [List.mem_cons, List.not_mem_nil, or_false] at hi
  obtain rfl | rfl | rfl := hi
  · exact exec_other (i := .nop) s rfl nofun
  · exact exec_other (i := .wrPhase d) s rfl nofun
  · exact exec_other (i := .wrRsvd d) s rfl nofun

/-! ### The read values as numbers -/

/-- A bit put below the others of a word doubles what they stand for. -/
theorem toNat_append_ofBool {n : Nat} (v : BitVec n) (c : Bool) :
    (v ++ BitVec.ofBool c).toNat = v.toNat * 2 + c.toNat :=
  BitVec.toNat_concat v c

/-- The weights of the five bits of STATUS (10_state.md R25). -/
theorem statusByte_toNat (b : Block) :
    (statusByte b).toNat =
      16 * (irOut b).toNat + 8 * b.ovr.toNat + 4 * b.errSel.toNat + 2 * b.done.toNat + (busy b).toNat := by
  simp only [statusByte, toNat_append_ofBool, BitVec.toNat_ofNat]
  omega

/-- PHASE holds the phase code above the four bits of `idx` (10_state.md R35). -/
theorem phaseByte_toNat (b : Block) : (phaseByte b).toNat = 16 * (phaseCode b.phase).toNat + b.idx.val := by
  have hidx : (BitVec.ofNat 4 b.idx.val).toNat = b.idx.val := Nat.mod_eq_of_lt (by omega)
  simp only [phaseByte, BitVec.toNat_append]
  rw [← Nat.shiftLeft_add_eq_or_of_lt (BitVec.isLt _), ← Nat.shiftLeft_add_eq_or_of_lt (BitVec.isLt _), hidx]
  simp only [Nat.shiftLeft_eq, BitVec.toNat_ofNat]
  omega

/-- A read records the register's value in the tick's first state and is the timing step beside that (R201). -/
theorem exec_read {i : Instr} {r : Reg} (s : State) (h : readOf i = some r) :
    exec i s = .next
      { s with
        block := advance s.params s.block
        history := ⟨s.block.phase == .markHi, some (readReg s.block r), none⟩ :: s.history } := by
  cases i <;> cases h <;> rfl

/-- Settles O19: each row is the read of a register with that value, so `exec_read` gives the next state. -/
theorem readsReturnTheRegisterAndOnlyAdvance : Obligations.ReadsReturnTheRegisterAndOnlyAdvance := by
  intro s r hr
  obtain ⟨reg, hreg, hval⟩ : ∃ reg, readOf r.1 = some reg ∧ (readReg s.block reg).toNat = r.2 := by
    simp only [List.mem_cons, List.not_mem_nil, or_false] at hr
    obtain rfl | rfl | rfl | rfl := hr
    · exact ⟨.cmd, rfl, rfl⟩
    · exact ⟨.status, rfl, statusByte_toNat s.block⟩
    · refine ⟨.phase, rfl, (phaseByte_toNat s.block).trans ?_⟩
      cases s.block.phase <;> rfl
    · exact ⟨.rsvd, rfl, rfl⟩
  exact ⟨_, hval, exec_read s hreg⟩

/-! ### The STATUS write -/

/-- The data of a bus word are its low byte. -/
theorem busWord_zero_or (we : Bool) (a : RegAddr) (d : Byte) : busWord we a 0 ||| d.zeroExtend 12 = busWord we a d :=
  calc (1#1 ++ BitVec.ofBool we ++ a) ++ 0#8 ||| d.setWidth 12
    _ = (1#1 ++ BitVec.ofBool we ++ a) ++ 0#8 ||| 0#4 ++ d := by rw [BitVec.setWidth_eq_append (by decide)]; rfl
    _ = ((1#1 ++ BitVec.ofBool we ++ a) ||| 0#4) ++ (0#8 ||| d) := BitVec.or_append
    _ = (1#1 ++ BitVec.ofBool we ++ a) ++ d := by rw [BitVec.or_zero, BitVec.zero_or]

/-- A mask bit clears its flag and a 0 bit keeps it; the bit of DONE counts only where the guard does not end (R207). -/
theorem clearFlags_clearMask (b a : Block) (d : Byte) :
    clearFlags b (clearMask d) a =
      { a with
        done := if d.getLsbD 1 = true ∧ ¬ (b.phase = .guard ∧ b.tmr = 1) then false else a.done
        errSel := if d.getLsbD 2 = true then false else a.errSel
        ovr := if d.getLsbD 3 = true then false else a.ovr } := by
  have and_not_eq_ite : ∀ x c : Bool, (x && !c) = if c = true then false else x := by decide
  simp only [clearFlags, clearMask, and_not_eq_ite a.done, and_not_eq_ite a.errSel, and_not_eq_ite a.ovr,
    ← guardEnds_iff, Bool.and_eq_true, Bool.not_eq_true', Bool.not_eq_true]

/-- The end of the guard sets DONE (R192). -/
theorem advance_done_of_guardEnds {p : Params} {b : Block} (h : guardEnds b = true) : (advance p b).done = true := by
  obtain ⟨_, ht⟩ := guardEnds_iff.1 h
  rw [advance_done ht.ge, h, Bool.or_true]

/-- Settles O20: the word is the write to address 1; its effect is `clearFlags_clearMask` on the timing step's block,
where the end of the guard has set DONE. -/
theorem statusWriteClearsTheNamedFlags : Obligations.StatusWriteClearsTheNamedFlags := by
  refine ⟨fun d => ?_, ?_⟩
  · exact (congrArg decodeWord (busWord_zero_or true 1 d)).trans (decodeWord_write 1 d)
  · rintro s d _ rfl
    refine ⟨?_, fun hp ht => advance_done_of_guardEnds (guardEnds_iff.2 ⟨hp, ht⟩)⟩
    rw [← clearFlags_clearMask]
    rfl

end Sys2Proof.Machine

/-!
SUPPORT and proof for 70_reset_and_hazards.md: the tick with `rst` = 1 (R250). Such a step is `resetTick` of the fetched
instruction, so the operation counts only by what it reads.
-/

namespace Sys2Proof.Machine

/-- A step with `rst` = 1 is the reset tick of the fetched instruction, which is not executed (R250). -/
theorem step_of_rst {s : State} {i : Instr} (hr : (nextInput s).rst = true) (hf : fetch (nextInput s) = .ok i) :
    step s = resetTick i s.consume := by
  simp [step, hf, hr]

/-- Only the four RD instructions read a register (45_register_access.md R202 to R205). -/
theorem readOf_eq_none {i : Instr} (hi : i ∉ [Instr.rdCmd, .rdStatus, .rdPhase, .rdRsvd]) : readOf i = none := by
  cases i with
  | rdCmd | rdStatus | rdPhase | rdRsvd => simp at hi
  | _ => rfl

/-- Settles O2: `step_of_rst` gives the next state, and `readOf` the register whose old value the record holds. -/
theorem resetTickGivesResetStateAndOldReadValue : Obligations.ResetTickGivesResetStateAndOldReadValue := by
  intro s i hr hf
  refine ⟨(readOf i).map (readReg s.block), step_of_rst hr hf, ?_, ?_, ?_, ?_, ?_⟩
  · rintro rfl; rfl
  · rintro rfl; rfl
  · rintro rfl; rfl
  · rintro rfl; rfl
  · intro hi
    rw [readOf_eq_none hi, Option.map_none]

end Sys2Proof.Machine

/-!
SUPPORT and proofs for 30_encoding.md, from words back to instructions: the decoder undoes the encoder (R79), a wide
number is no word (93_implementation_defined.md I7), and the words of the assembly lines (R83). A CMD write goes by its
selector (`encode_of_selector?`, `decodeTx_of_selector?`), every other instruction by its address.
-/

namespace Sys2Proof.Machine

/-! ### Encoding and decoding -/

/-- The decoder gives every 12-bit word its instruction (30_encoding.md R80). -/
theorem decode_toNat (w : BusWord) : decode w.toNat = .ok (decodeWord w) := by
  simp [decode, w.isLt]

theorem decode_of_wide {w : Nat} (h : 4096 ≤ w) : decode w = .error .wideWord := if_neg h.not_gt

theorem decodeTableWord_eq_some {k w : Nat} {i : Instr} : decodeTableWord k w = some i ↔ decode w = .ok i := by
  unfold decodeTableWord
  cases decode w <;> simp

theorem decodeTableWord_eq_none {k w : Nat} {e : DecodeError} (h : decode w = .error e) :
    decodeTableWord k w = none := by
  simp [decodeTableWord, h]

theorem decodeWord_encode {i : Instr} (hwf : i.WellFormed) : decodeWord (encode i) = i := by
  cases hsel : i.selector? with
  | some d =>
    rw [encode_of_selector? hsel, decodeWord_write, decodeWrite_cmd, decodeTx_of_selector? hsel hwf]
  | none =>
    cases i with
    | nop => exact decodeWord_noAccess rfl
    | rdCmd => exact decodeWord_read 0 0
    | rdStatus => exact decodeWord_read 1 0
    | rdPhase => exact decodeWord_read 2 0
    | rdRsvd => exact decodeWord_read 3 0
    | wrStatus d => exact decodeWord_write 1 d
    | wrPhase d => exact decodeWord_write 2 d
    | wrRsvd d => exact decodeWord_write 3 d
    | _ => simp [Instr.selector?] at hsel

/-- Settles O4: `decodeWord_encode`, for the word as a number the host drives. -/
theorem decodeOfEncodeIsTheInstruction : Obligations.DecodeOfEncodeIsTheInstruction := by
  intro i hwf
  have hdec : decode (encode i).toNat = .ok i := by rw [decode_toNat, decodeWord_encode hwf]
  exact ⟨hdec, fun _ => decodeTableWord_eq_some.2 hdec⟩

/-- Settles O8: the decoder evaluated on the ten words. -/
theorem sampleWordsDecode : Obligations.SampleWordsDecode :=
  ⟨rfl, rfl, rfl, rfl, rfl, rfl, rfl, rfl, rfl, rfl⟩

/-- Settles O9: 4096 is the first number that is not below `decode`'s bound. -/
theorem wideWordsAreRejectedByName : Obligations.WideWordsAreRejectedByName :=
  fun _ h => ⟨decode_of_wide h, fun _ => decodeTableWord_eq_none (decode_of_wide h)⟩

/-! ### The words of the assembly lines -/

/-- The word of a WR line is the first write word of its register with the data in the low byte (R83). -/
theorem assembleOp_wr (p : Params) (r : Reg) (d : Byte) :
    assembleOp p (.wr r d) = some [busWord true (regAddr r) 0 ||| d.zeroExtend 12] := by
  rw [busWord_zero_or]
  rfl

/-- That word decodes to the write of the data to the register's address. -/
theorem decodeWord_writeLine (r : Reg) (d : Byte) :
    decodeWord (busWord true (regAddr r) 0 ||| d.zeroExtend 12) = decodeWrite (regAddr r) d := by
  rw [busWord_zero_or, decodeWord_write]

/-- Settles O49: `assembleOp_wr` and `decodeWord_writeLine` for the WR lines; the words of NOP and RD lines are five
constants. -/
theorem assemblyLinesHaveTheirWords : Obligations.AssemblyLinesHaveTheirWords := by
  intro p d
  refine ⟨rfl, rfl, rfl, rfl, rfl, assembleOp_wr p .cmd d, assembleOp_wr p .status d, assembleOp_wr p .phase d,
    assembleOp_wr p .rsvd d, rfl, ?_, decodeWord_writeLine .status d, decodeWord_writeLine .phase d,
    decodeWord_writeLine .rsvd d⟩
  exact (congrArg Instr.selector? (decodeWord_writeLine .cmd d)).trans (decodeTx_spec d).1

end Sys2Proof.Machine

/-!
SUPPORT and proofs for 44_transmission_engine.md section 3 and 60_exceptions.md: a step is refused exactly where the
host's input stands for no instruction, else it answers (R190); what it records (R194, R235); and that an error event
sets its own bit only (R226). Statements over one instruction go by the cases of `exec_next`.
-/

namespace Sys2Proof.Machine

/-! ### What the host's input stands for -/

theorem fetch_of_decode {h : HostTick} {w : Nat} {i : Instr} (hw : h.words = [w]) (hd : decode w = .ok i) :
    fetch h = .ok i := by
  simp [fetch, hw, hd]

theorem fetch_wide {h : HostTick} {w : Nat} (hw : h.words = [w]) (hwide : 4096 ≤ w) : fetch h = .error .wideWord := by
  simp [fetch, hw, decode_of_wide hwide]

theorem fetch_two {h : HostTick} (hlen : 2 ≤ h.words.length) : fetch h = .error .twoOperations := by
  unfold fetch
  split
  case h_1 hw => simp [hw] at hlen
  case h_2 hw => simp [hw] at hlen
  case h_3 => rfl

/-- A tick within the spec drives no word or one of 12 bits (70_reset_and_hazards.md R264). -/
theorem legal_iff {h : HostTick} : h.Legal ↔ h.words = [] ∨ ∃ w, h.words = [w] ∧ w < 4096 := by
  match hw : h.words with
  | [] => simp [HostTick.Legal, hw]
  | [w] => simp [HostTick.Legal, hw]
  | _ :: _ :: _ => simp [HostTick.Legal, hw]

/-- The other ticks are the two kinds that are refused. -/
theorem not_legal_iff {h : HostTick} : ¬ h.Legal ↔ 2 ≤ h.words.length ∨ ∃ w, h.words = [w] ∧ 4096 ≤ w := by
  match hw : h.words with
  | [] => simp [HostTick.Legal, hw]
  | [w] => simp [HostTick.Legal, hw]
  | _ :: _ :: _ => simp [HostTick.Legal, hw]

theorem fetch_of_legal {h : HostTick} (hl : h.Legal) : ∃ i, fetch h = .ok i := by
  obtain hw | ⟨w, hw, hlt⟩ := legal_iff.1 hl
  · exact ⟨_, fetch_none hw⟩
  · exact ⟨_, fetch_word hw hlt⟩

/-! ### Which steps answer -/

theorem step_of_not_rst {s : State} {i : Instr} (hr : (nextInput s).rst = false) (hf : fetch (nextInput s) = .ok i) :
    step s = exec i s.consume := by
  simp [step, hf, hr]

theorem step_of_fetch_error {s : State} {r : Refusal} (h : fetch (nextInput s) = .error r) : step s = .refused r := by
  simp [step, h]

/-- Every instruction is a tick with some record and some effect on the timing step's block. -/
theorem exec_eq_tick (i : Instr) (s : State) : ∃ r e f, exec i s = tick s r e f := by
  cases hsel : i.selector? with
  | some d =>
    rw [exec_cmd s hsel]
    by_cases hidle : s.block.phase = .idle
    · cases htable : tableIndex? d with
      | some n => exact ⟨_, _, _, cmdTick_accept hidle htable⟩
      | none => exact ⟨_, _, _, cmdTick_invalid hidle htable⟩
    · exact ⟨_, _, _, cmdTick_busy hidle⟩
  | none =>
    by_cases hwr : ∃ d, i = .wrStatus d
    · obtain ⟨d, rfl⟩ := hwr
      exact ⟨_, _, _, rfl⟩
    · exact ⟨_, _, _, exec_other s hsel fun d hd => hwr ⟨d, hd⟩⟩

/-- Settles O14: a tick always answers (`exec_eq_tick`). -/
theorem everyOperationAnswersANextState : Obligations.EveryOperationAnswersANextState := by
  intro i s
  obtain ⟨r, e, f, h⟩ := exec_eq_tick i s
  exact ⟨_, h⟩

/-- Settles O13: a legal input stands for an instruction, which answers; so does the reset tick. -/
theorem stepIsTotalForALegalHost : Obligations.StepIsTotalForALegalHost := by
  intro s hl
  obtain ⟨i, hf⟩ := fetch_of_legal hl
  cases hr : (nextInput s).rst with
  | true => exact ⟨_, step_of_rst hr hf⟩
  | false =>
    rw [step_of_not_rst hr hf]
    exact everyOperationAnswersANextState i _

/-- Settles O12: a legal tick answers (O13), and each of the two other kinds has its refusal. -/
theorem stepRefusesExactlyIllegalTicks : Obligations.StepRefusesExactlyIllegalTicks := by
  intro s
  have htwo : 2 ≤ (nextInput s).words.length → step s = .refused .twoOperations :=
    fun hlen => step_of_fetch_error (fetch_two hlen)
  have hwide : ∀ w, (nextInput s).words = [w] → 4096 ≤ w → step s = .refused .wideWord :=
    fun w hw hle => step_of_fetch_error (fetch_wide hw hle)
  refine ⟨⟨?_, fun hill => ?_⟩, htwo, hwide⟩
  · rintro ⟨r, hr⟩ hl
    obtain ⟨t, ht⟩ := stepIsTotalForALegalHost s hl
    simp [hr] at ht
  · obtain hlen | ⟨w, hw, hle⟩ := not_legal_iff.1 hill
    · exact ⟨_, htwo hlen⟩
    · exact ⟨_, hwide w hw hle⟩

/-! ### Which instruction a step runs -/

theorem consume_of_inputs_nil {s : State} (h : s.inputs = []) : s.consume = s := by
  obtain ⟨b, p, ins, past⟩ := s
  obtain rfl : ins = [] := h
  rfl

/-- Settles O10: `fetch` reads the word, or NOP without one, and `step_of_not_rst` runs it. -/
theorem stepRunsTheDecodedInstruction : Obligations.StepRunsTheDecodedInstruction := by
  refine ⟨fun s w hin => ⟨(decodeWord_spec w).1, ?_⟩, fun s hin => ?_, fun s hin => ?_⟩
  · exact step_of_not_rst (by rw [hin]) (fetch_of_decode (by rw [hin]) (decode_toNat w))
  · exact step_of_not_rst (by rw [hin]) (fetch_none (by rw [hin]))
  · have hquiet : nextInput s = .quiet := by simp [nextInput, hin]
    have hstep : step s = exec .nop s.consume :=
      step_of_not_rst (by rw [hquiet]; rfl) (fetch_none (by rw [hquiet]; rfl))
    rw [hstep, consume_of_inputs_nil hin]

/-- Settles O11: the placed word is the next input, so `fetch` reads the instruction the table word decodes to. -/
theorem placedWordIsTheNextOneRun : Obligations.PlacedWordIsTheNextOneRun := by
  intro s k w i hdec
  have hf : fetch (nextInput (s.withFetchWord k w)) = .ok i :=
    fetch_of_decode (w := w) rfl (decodeTableWord_eq_some.1 hdec)
  exact ⟨step_of_not_rst rfl hf, withFetchWord_block .., withFetchWord_params .., withFetchWord_history ..⟩

/-! ### What a tick records -/

/-- A CMD write reads no register. -/
theorem readOf_of_selector? {i : Instr} {d : Byte} (h : i.selector? = some d) : readOf i = none := by
  apply readOf_eq_none
  intro hi
  simp only [List.mem_cons, List.not_mem_nil, or_false] at hi
  rcases hi with rfl | rfl | rfl | rfl <;> cases h

/-- An instruction adds one record: the pin, the read value, and an error event exactly for a refused CMD write. -/
theorem exec_record {i : Instr} {s t : State} (h : exec i s = .next t) :
    ∃ e, t.history = ⟨irOut s.block, (readOf i).map (readReg s.block), e⟩ :: s.history ∧
      (∀ sel, e = some (.overrun sel) ↔ s.block.phase ≠ .idle ∧ i.selector? = some sel) ∧
      (∀ sel, e = some (.invalidSelector sel) ↔
        s.block.phase = .idle ∧ i.selector? = some sel ∧ (sel.toNat = 0 ∨ 13 ≤ sel.toNat)) := by
  rcases exec_next h with ⟨hi, _, rfl⟩ | ⟨d, rfl, rfl⟩ | ⟨d, hi, hp, rfl⟩ | ⟨d, n, hi, hp, hn, rfl⟩ |
    ⟨d, hi, hp, hn, rfl⟩
  · -- no access, a read or an ignored write
    exact ⟨none, rfl, by simp [hi], by simp [hi]⟩
  · -- a STATUS write
    exact ⟨none, rfl, by simp [selector?_wrStatus], by simp [selector?_wrStatus]⟩
  · -- an Overrun
    exact ⟨some (.overrun d), by simp [readOf_of_selector? hi], by simp [hp, hi], by simp [hp]⟩
  · -- an accept
    have hvalid := valid_of_tableIndex? hn
    refine ⟨none, by simp [readOf_of_selector? hi], by simp [hp], fun sel => ?_⟩
    simp only [reduceCtorEq, hi, Option.some.injEq, false_iff]
    rintro ⟨_, rfl, hinvalid⟩
    omega
  · -- an InvalidSelector
    have hinvalid : d.toNat = 0 ∨ 13 ≤ d.toNat := tableIndex?_eq_none.1 hn
    refine ⟨some (.invalidSelector d), by simp [readOf_of_selector? hi], by simp [hp], fun sel => ?_⟩
    simp only [Option.some.injEq, ErrorEvent.invalidSelector.injEq, hp, hi, true_and]
    exact ⟨by rintro rfl; exact ⟨rfl, hinvalid⟩, fun hsel => hsel.1⟩

/-- Settles O32: `exec_record` for `rst` = 0; a reset tick records the read and no event. -/
theorem everyTickRecordsPinReadAndEvent : Obligations.EveryTickRecordsPinReadAndEvent := by
  intro s t i hf h
  cases hr : (nextInput s).rst with
  | true =>
    rw [step_of_rst hr hf, resetTick_next] at h
    subst h
    exact ⟨_, rfl, irOut_iff, rfl, by simp, by simp⟩
  | false =>
    obtain ⟨e, hhist, hover, hinvalid⟩ := exec_record (exec_of_step_next hf hr h)
    exact ⟨_, hhist, irOut_iff, rfl, by simpa using hover, by simpa using hinvalid⟩

/-! ### Precision of the error events -/

/-- Settles O25: NOP is the timing step alone; of the cases of `exec_next` two record an event, and there the block is
`raiseEvent` of the timing step's. -/
theorem errorEventChangesOnlyItsOwnBit : Obligations.ErrorEventChangesOnlyItsOwnBit := by
  intro i s t h
  have hnop : exec .nop s = .next (s.observe none none (advance s.params s.block)) := rfl
  rcases exec_next h with ⟨_, _, rfl⟩ | ⟨d, _, rfl⟩ | ⟨d, _, _, rfl⟩ | ⟨d, n, _, _, _, rfl⟩ | ⟨d, _, hp, _, rfl⟩
  · -- no access, a read or an ignored write
    exact ⟨_, _, rfl, hnop, by simp, by simp⟩
  · -- a STATUS write
    exact ⟨_, _, rfl, hnop, by simp, by simp⟩
  · -- an Overrun
    exact ⟨_, _, rfl, hnop, by simp, by simp [raiseEvent]⟩
  · -- an accept
    exact ⟨_, _, rfl, hnop, by simp, by simp⟩
  · -- an InvalidSelector, from IDLE, where the timing step changes nothing
    exact ⟨_, _, rfl, hnop, by simp [raiseEvent, advance_idle hp], by simp⟩

/-! ### The selector register -/

/-- `sel_r` after an instruction: written by an accept, kept by everything else (10_state.md R32). -/
theorem exec_selR {i : Instr} {s t : State} (h : exec i s = .next t) :
    (∃ sel, s.block.phase = .idle ∧ i.selector? = some sel ∧ (1 ≤ sel.toNat ∧ sel.toNat ≤ 12) ∧ t.block.selR = sel) ∨
    ((∀ sel, s.block.phase = .idle → i.selector? = some sel → ¬ (1 ≤ sel.toNat ∧ sel.toNat ≤ 12)) ∧
      t.block.selR = s.block.selR) := by
  obtain ⟨hadv, _⟩ := advance_frame s.params s.block
  rcases exec_next h with ⟨hi, _, rfl⟩ | ⟨d, rfl, rfl⟩ | ⟨d, _, hp, rfl⟩ | ⟨d, n, hi, hp, hn, rfl⟩ |
    ⟨d, hi, hp, hn, rfl⟩
  · -- no access, a read or an ignored write
    exact .inr ⟨by simp [hi], hadv⟩
  · -- a STATUS write
    exact .inr ⟨by simp [selector?_wrStatus], hadv⟩
  · -- an Overrun
    exact .inr ⟨by simp [hp], hadv⟩
  · -- an accept
    exact .inl ⟨d, hp, hi, valid_of_tableIndex? hn, (accept_frame s.params d s.block).1⟩
  · -- an InvalidSelector
    refine .inr ⟨fun sel _ hsel => ?_, rfl⟩
    obtain rfl : d = sel := by simpa [hi] using hsel
    have := tableIndex?_eq_none.1 hn
    omega

/-- Settles O30: `exec_selR` for `rst` = 0, and reset writes 0. -/
theorem selectorRegisterIsWrittenOnlyByAnAccept : Obligations.SelectorRegisterIsWrittenOnlyByAnAccept := by
  intro s t i hf h
  refine ⟨fun hr => ?_, fun hr => ?_⟩
  · obtain ⟨r, rfl⟩ := step_next_of_rst hr h
    rfl
  · obtain ⟨sel, hp, hsel, hvalid, hwritten⟩ | ⟨hno, hkept⟩ := exec_selR (exec_of_step_next hf hr h)
    · refine ⟨fun sel' _ hsel' _ _ => ?_, fun hno => absurd ⟨hp, sel, hsel, hvalid⟩ hno⟩
      obtain rfl : sel = sel' := by simpa [hsel] using hsel'
      exact hwritten
    · exact ⟨fun sel hp hsel hlo hhi => absurd ⟨hlo, hhi⟩ (hno sel hp hsel), fun _ => hkept⟩

end Sys2Proof.Machine

/-!
SUPPORT and proofs for 43_pulse_sequencer.md section 1: the three procedures as the section writes them (R143), where
they leave `idx`, and what a frame's start depends on (R150, R151).
-/

namespace Sys2Proof.Machine

/-! ### The pairs still to send -/

theorem pairIndices_drop (i : Fin 14) : pairIndices.drop i.val = i :: pairIndices.drop (i.val + 1) := by
  revert i
  decide

/-- The last pair sent after pair `i` is pair 13, and so is pair `i` itself when none is left. -/
theorem pairIndices_drop_getLastD (i : Fin 14) : (pairIndices.drop (i.val + 1)).getLastD i = 13 := by
  revert i
  decide

theorem lt_of_mem_pairIndices_drop {i k : Fin 14} (h : k ∈ pairIndices.drop (i.val + 1)) : i < k := by
  have hall : ∀ i : Fin 14, ∀ k ∈ pairIndices.drop (i.val + 1), i < k := by decide
  exact hall i k h

/-! ### The three procedures -/

theorem enterPair_eq (p : Params) (i : Fin 14) (b : Block) :
    enterPair p i b =
      if 0 < (markRead p b.selR i).toNat then enterHigh p { b with idx := i, ctr := markLoad (markRead p b.selR i) }
      else enterSpace p i { b with idx := i, ctr := 0 } := by
  rw [enterPair, pairIndices_drop, enterPairs]
  by_cases hm : 0 < (markRead p b.selR i).toNat
  · have hload : markLoad (markRead p b.selR i) > 0 := by unfold markLoad; omega
    simp [hload, hm]
  · have hload : markLoad (markRead p b.selR i) = 0 := by unfold markLoad; omega
    simp [hload, hm, enterSpace, enterNext]

theorem enterNext_of_lt (p : Params) {i : Fin 14} (b : Block) (h : i.val < 13) :
    enterNext p i b = enterPair p ⟨i.val + 1, by omega⟩ b := rfl

theorem enterNext_last (p : Params) {i : Fin 14} (b : Block) (h : i.val = 13) : enterNext p i b = enterGuard p b := by
  rw [enterNext, h]
  rfl

/-- Settles O17: the three procedures by their equations, and what they read by the ROM's layout. -/
theorem enteringFollowsTheThreeProcedures : Obligations.EnteringFollowsTheThreeProcedures := by
  intro p i b
  refine ⟨enterPair_eq p i b, rfl, enterNext_of_lt p b, enterNext_last p b, fun n hn => ?_⟩
  have htable : tableIndex? b.selR = some n := tableIndex?_eq_some.2 hn
  exact ⟨(markRead_of_table htable i).trans (mark_eq_pulseTable p n i),
    (spaceRead_of_table htable i).trans (space_eq_pulseTable p n i)⟩

/-- `enter_next` begins a segment of a later pair or the guard; `idx` ends at 13 in the guard. -/
theorem enterNext_position (p : Params) (b : Block) :
    (((enterNext p b.idx b).phase = .markHi ∨ (enterNext p b.idx b).phase = .space) ∧
        b.idx < (enterNext p b.idx b).idx) ∨
      ((enterNext p b.idx b).phase = .guard ∧ (enterNext p b.idx b).idx = 13) := by
  rw [enterNext]
  rcases enterPairs_cases p (pairIndices.drop (b.idx.val + 1)) b with ⟨k, hk, _, h⟩ | ⟨k, hk, _, _, h⟩ | ⟨_, h⟩ <;>
    rw [h]
  · exact .inl ⟨.inl rfl, lt_of_mem_pairIndices_drop hk⟩
  · exact .inl ⟨.inr rfl, lt_of_mem_pairIndices_drop hk⟩
  · exact .inr ⟨rfl, pairIndices_drop_getLastD b.idx⟩

/-! ### The start of a frame -/

/-- Entering pairs overwrites phase and timer and, if there is a pair, index and counter: blocks with the same selector
and DONE end alike up to the error flags, which each keeps. -/
theorem enterPairs_forgets {p : Params} {is : List (Fin 14)} {a b : Block} (hsel : a.selR = b.selR)
    (hdone : a.done = b.done) (hstart : is = [] → a.idx = b.idx ∧ a.ctr = b.ctr) :
    enterPairs p is a = { enterPairs p is b with errSel := a.errSel, ovr := a.ovr } := by
  induction is generalizing a b with
  | nil =>
    obtain ⟨hidx, hctr⟩ := hstart rfl
    simp [enterPairs, enterGuard, hsel, hdone, hidx, hctr]
  | cons i rest ih =>
    simp only [enterPairs, hsel]
    split_ifs
    · simp [enterHigh, hdone]
    · simp [enterSilence, hdone]
    · exact ih (a := { a with idx := i, selR := b.selR, ctr := markLoad (markRead p b.selR i) })
        (b := { b with idx := i, ctr := markLoad (markRead p b.selR i) }) rfl hdone fun _ => ⟨rfl, rfl⟩

/-- Accepting a selector gives the same block from all states, up to the error flags. -/
theorem accept_forgets (p : Params) (d : Byte) (a b : Block) :
    accept p d a = { accept p d b with errSel := a.errSel, ovr := a.ovr } :=
  enterPairs_forgets (a := { a with selR := d, done := false }) rfl rfl nofun

/-- Settles O48: both steps accept, and `accept_forgets`. -/
theorem frameStartForgetsEarlierFrames : Obligations.FrameStartForgetsEarlierFrames := by
  intro i sel n s s' t t' hsel htable hparams hidle hidle' h h'
  rw [exec_accept hsel (valid_of_tableIndex? htable) hidle] at h
  rw [exec_accept hsel (valid_of_tableIndex? htable) hidle'] at h'
  cases h
  cases h'
  simp only
  obtain ⟨_, _, herr, hovr⟩ := accept_frame s.params sel s.block
  rw [← hparams]
  exact accept_forgets s.params sel s'.block s.block

/-- Settles O24: TX_A_OFF is accepted with selector 3, whose first mark is 180 units. -/
theorem selectorThreeStartsItsLeadInMark : Obligations.SelectorThreeStartsItsLeadInMark := by
  intro s hidle
  rw [exec_accept (d := 3) rfl (by decide) hidle, accept, enterPair_eq]
  have hmark : markRead s.params 3 0 = 180 := by
    rw [markRead_of_table (tableIndex?_eq_some (n := 2).2 rfl), mark_eq_pulseTable, pulseTable_two]
    rfl
  simp only [hmark]
  rfl

end Sys2Proof.Machine

/-!
SUPPORT and proofs for 10_state.md section 5 and 44_transmission_engine.md section 1: every step keeps the invariant
(R41), and the phases follow each other as R167 lists them. A block of the invariant is built by one rule per phase
(`inv_of_idle`, `inv_of_mark`, `inv_of_space`, `inv_of_guard`); the timing step goes by `advance_cases` and
`segmentEnd_cases`.
-/

namespace Sys2Proof.Machine

/-! ### Lengths of segments -/

theorem halfTicks_pos {p : Params} (hp : p.Wf) : 0 < halfTicks p := by
  have := hp.1
  unfold halfTicks
  omega

theorem guardTicks_pos {p : Params} (hp : p.Wf) : 0 < guardTicks p := by
  have := hp.1
  unfold guardTicks
  omega

theorem spaceTicks_pos {p : Params} {v : Entry} (hp : p.Wf) (hv : 0 < v.toNat) : 0 < spaceTicks p v :=
  Nat.mul_pos (by omega) hp.1

theorem markLoad_range {m : Entry} (hm : 0 < m.toNat) : 0 < markLoad m ∧ markLoad m ≤ 655350 := by
  have := m.isLt
  unfold markLoad
  omega

/-! ### One rule per phase -/

theorem inv_of_idle {p : Params} {b : Block} (hphase : b.phase = .idle) (htmr : b.tmr = 0) (hsel : b.selR.toNat ≤ 12)
    (hctr : -25 ≤ b.ctr ∧ b.ctr ≤ 655350) : b.Inv p := by
  constructor <;> simp [hphase, htmr, hsel, hctr]

theorem inv_of_mark {p : Params} {b : Block} (hphase : b.phase = .markHi ∨ b.phase = .markLo)
    (htmr : 0 < b.tmr ∧ b.tmr ≤ halfTicks p) (hsel : 1 ≤ b.selR.toNat ∧ b.selR.toNat ≤ 12)
    (hctr : 0 < b.ctr ∧ b.ctr ≤ 655350) : b.Inv p where
  idle_iff := by rcases hphase with h | h <;> simp [h] <;> omega
  sel_le := hsel.2
  busy_sel _ := hsel.1
  guard_idx h := by simp [h] at hphase
  mark_range _ := ⟨hctr.1, htmr.2⟩
  space_range h := by simp [h] at hphase
  guard_range h := by simp [h] at hphase
  ctr_range := ⟨by omega, hctr.2⟩

theorem inv_of_space {p : Params} {b : Block} (hphase : b.phase = .space) (htmr : 0 < b.tmr)
    (hlen : ∀ n, tableIndex? b.selR = some n → b.tmr ≤ spaceTicks p (space p n b.idx))
    (hsel : 1 ≤ b.selR.toNat ∧ b.selR.toNat ≤ 12) (hctr : -25 ≤ b.ctr ∧ b.ctr ≤ 655350) : b.Inv p := by
  have hpos : b.tmr ≠ 0 := htmr.ne'
  constructor <;> simp [hphase, hpos, hsel, hctr]
  exact hlen

theorem inv_of_guard {p : Params} {b : Block} (hphase : b.phase = .guard) (htmr : 0 < b.tmr ∧ b.tmr ≤ guardTicks p)
    (hidx : b.idx = 13) (hsel : 1 ≤ b.selR.toNat ∧ b.selR.toNat ≤ 12) (hctr : -25 ≤ b.ctr ∧ b.ctr ≤ 655350) :
    b.Inv p := by
  have hpos : b.tmr ≠ 0 := htmr.1.ne'
  constructor <;> simp [hphase, hpos, hsel, hctr, hidx, htmr]

/-- The invariant says nothing of the three flags. -/
theorem Block.Inv.flags {p : Params} {b : Block} (h : b.Inv p) (done errSel ovr : Bool) :
    { b with done := done, errSel := errSel, ovr := ovr }.Inv p :=
  ⟨h.idle_iff, h.sel_le, h.busy_sel, h.guard_idx, h.mark_range, h.space_range, h.guard_range, h.ctr_range⟩

theorem Block.Inv.tmr_pos {p : Params} {b : Block} (h : b.Inv p) (hp : b.phase ≠ .idle) : 0 < b.tmr :=
  Nat.pos_of_ne_zero fun h0 => hp (h.idle_iff.2 h0)

/-! ### Entering pairs -/

/-- Entering pairs ends in the invariant, if the pairs run to pair 13 and the guard gets a counter in range. -/
theorem enterPairs_inv {p : Params} {is : List (Fin 14)} {b : Block} (hp : p.Wf)
    (hsel : 1 ≤ b.selR.toNat ∧ b.selR.toNat ≤ 12) (hctr : is = [] → -25 ≤ b.ctr ∧ b.ctr ≤ 655350)
    (hlast : is.getLastD b.idx = 13) : (enterPairs p is b).Inv p := by
  rcases enterPairs_cases p is b with ⟨i, _, hm, h⟩ | ⟨i, _, _, hs, h⟩ | ⟨_, h⟩ <;> rw [h]
  · exact inv_of_mark (.inl rfl) ⟨halfTicks_pos hp, le_rfl⟩ hsel (markLoad_range hm)
  · refine inv_of_space rfl (spaceTicks_pos hp hs) (fun n hn => ?_) hsel (by simp)
    have hread : spaceRead p b.selR i = space p n i := spaceRead_of_table hn i
    simp [hread]
  · refine inv_of_guard rfl ⟨guardTicks_pos hp, le_rfl⟩ hlast hsel ?_
    cases is with
    | nil => exact hctr rfl
    | cons i rest => simp

theorem enterNext_inv {p : Params} {b : Block} (hp : p.Wf) (hsel : 1 ≤ b.selR.toNat ∧ b.selR.toNat ≤ 12)
    (hctr : -25 ≤ b.ctr ∧ b.ctr ≤ 655350) : (enterNext p b.idx b).Inv p :=
  enterPairs_inv hp hsel (fun _ => hctr) (pairIndices_drop_getLastD b.idx)

theorem enterSpace_inv {p : Params} {b : Block} (hp : p.Wf) (hsel : 1 ≤ b.selR.toNat ∧ b.selR.toNat ≤ 12)
    (hctr : -25 ≤ b.ctr ∧ b.ctr ≤ 655350) : (enterSpace p b.idx b).Inv p := by
  unfold enterSpace
  split
  case isTrue hs =>
    refine inv_of_space rfl (spaceTicks_pos hp hs) (fun n hn => ?_) hsel hctr
    have hread : spaceRead p b.selR b.idx = space p n b.idx := spaceRead_of_table hn b.idx
    simp [hread]
  case isFalse => exact enterNext_inv hp hsel hctr

theorem accept_inv {p : Params} {d : Byte} (b : Block) (hp : p.Wf) (hd : 1 ≤ d.toNat ∧ d.toNat ≤ 12) :
    (accept p d b).Inv p :=
  enterPairs_inv hp hd nofun rfl

/-! ### The timing step -/

/-- The end of a segment of a block of the invariant begins a segment within the invariant, or IDLE. -/
theorem segmentEnd_inv {p : Params} {b : Block} (hp : p.Wf) (h : b.Inv p) (hbusy : b.phase ≠ .idle) :
    (segmentEnd p { b with tmr := 0 }).Inv p := by
  have hsel : 1 ≤ b.selR.toNat ∧ b.selR.toNat ≤ 12 := ⟨h.busy_sel hbusy, h.sel_le⟩
  obtain ⟨hlo, hhi⟩ := h.ctr_range
  rcases segmentEnd_cases p { b with tmr := 0 } with ⟨hq, _⟩ | ⟨hq, e⟩ | ⟨hq, hc, e⟩ | ⟨hq, hc, e⟩ | ⟨hq, e⟩ | ⟨hq, e⟩
  · exact absurd hq hbusy
  · rw [e]
    exact inv_of_mark (.inr rfl) ⟨halfTicks_pos hp, le_rfl⟩ hsel ⟨(h.mark_range (.inl hq)).1, hhi⟩
  · rw [e]
    simp only at hc
    exact inv_of_mark (.inl rfl) ⟨halfTicks_pos hp, le_rfl⟩ hsel (by simp; omega)
  · rw [e]
    have hpos := (h.mark_range (.inr hq)).1
    exact enterSpace_inv (b := { b with tmr := 0, ctr := b.ctr - 26 }) hp hsel (by simp only; omega)
  · rw [e]
    exact enterNext_inv (b := { b with tmr := 0 }) hp hsel ⟨hlo, hhi⟩
  · rw [e]
    exact inv_of_idle rfl rfl hsel.2 ⟨hlo, hhi⟩

/-- A segment that goes on stays within its length. -/
theorem count_inv {p : Params} {b : Block} (h : b.Inv p) (hbusy : b.phase ≠ .idle) (ht : 2 ≤ b.tmr) :
    { b with tmr := b.tmr - 1 }.Inv p where
  idle_iff := by simp only [hbusy, false_iff]; omega
  sel_le := h.sel_le
  busy_sel := h.busy_sel
  guard_idx := h.guard_idx
  mark_range hq := ⟨(h.mark_range hq).1, (Nat.sub_le ..).trans (h.mark_range hq).2⟩
  space_range hq n hn := (Nat.sub_le ..).trans (h.space_range hq n hn)
  guard_range hq := (Nat.sub_le ..).trans (h.guard_range hq)
  ctr_range := h.ctr_range

theorem advance_inv {p : Params} {b : Block} (hp : p.Wf) (h : b.Inv p) : (advance p b).Inv p := by
  by_cases hbusy : b.phase = .idle
  · rwa [advance_idle hbusy]
  · have hpos := h.tmr_pos hbusy
    by_cases hlast : b.tmr = 1
    · rw [advance_last hbusy hlast]
      exact segmentEnd_inv hp h hbusy
    · rw [advance_count hbusy (by omega)]
      exact count_inv h hbusy (by omega)

/-! ### One instruction and one step -/

theorem exec_inv {i : Instr} {s t : State} (hinv : s.Inv) (h : exec i s = .next t) : t.block.Inv s.params := by
  have hadv : (advance s.params s.block).Inv s.params := advance_inv hinv.params hinv.block
  rcases exec_next h with ⟨_, _, rfl⟩ | ⟨d, _, rfl⟩ | ⟨d, _, _, rfl⟩ | ⟨d, n, _, _, hn, rfl⟩ | ⟨d, _, _, _, rfl⟩
  · -- no access, a read or an ignored write
    exact hadv
  · -- a STATUS write
    exact hadv.flags ..
  · -- an Overrun
    exact hadv.flags ..
  · -- an accept
    exact accept_inv s.block hinv.params (valid_of_tableIndex? hn)
  · -- an InvalidSelector
    exact hinv.block.flags ..

theorem blockReset_inv (p : Params) : Block.reset.Inv p := inv_of_idle rfl rfl (by decide) (by decide)

/-- Settles O3: the reset block satisfies the invariant with any parameters, and the default ones are well formed. -/
theorem resetStateSatisfiesInvariant : Obligations.ResetStateSatisfiesInvariant :=
  ⟨by decide, blockReset_inv _⟩

/-- Settles O33: an instruction keeps the invariant (`exec_inv`), a reset tick establishes it, and no step writes the
parameters. -/
theorem stepKeepsTheInvariant : Obligations.StepKeepsTheInvariant := by
  intro s t hinv h
  have hparams : t.params = s.params := step_params h
  refine ⟨hparams ▸ hinv.params, hparams ▸ ?_⟩
  obtain ⟨i, _, ⟨_, hreset⟩ | ⟨_, hexec⟩⟩ := step_next h
  · rw [resetTick_next.1 hreset]
    exact blockReset_inv _
  · exact exec_inv (s := s.consume) ⟨hinv.params, hinv.block⟩ hexec

/-! ### The phases of a frame -/

/-- From `b` to `a` the phase and `idx` stay, or the phase takes a listed transition and `idx` does not fall within a
frame (R167). -/
def Block.Moves (b a : Block) : Prop :=
  (a.phase = b.phase ∧ a.idx = b.idx) ∨
    (phaseMove b.phase a.phase = true ∧ (b.phase ≠ .idle → b.idx ≤ a.idx) ∧ (b.phase = .markHi → a.idx = b.idx) ∧
      (b.phase = .space → a.phase ≠ .guard → b.idx < a.idx))

/-- `enter_next` from a low half or a space is a listed transition. -/
theorem enterNext_moves (p : Params) {b : Block} (h : b.phase = .markLo ∨ b.phase = .space) :
    b.Moves (enterNext p b.idx b) := by
  have hhigh : b.phase ≠ .markHi := by rcases h with h | h <;> simp [h]
  obtain ⟨hq, hlt⟩ | ⟨hq, hlast⟩ := enterNext_position p b
  · refine .inr ⟨?_, fun _ => hlt.le, fun h => absurd h hhigh, fun _ _ => hlt⟩
    rcases h with h | h <;> rcases hq with hq | hq <;> rw [h, hq] <;> rfl
  · refine .inr ⟨?_, fun _ => hlast ▸ Fin.le_last b.idx, fun h => absurd h hhigh, fun _ hno => absurd hq hno⟩
    rcases h with h | h <;> rw [h, hq] <;> rfl

theorem enterSpace_moves (p : Params) {b : Block} (h : b.phase = .markLo) : b.Moves (enterSpace p b.idx b) := by
  unfold enterSpace
  split
  · exact .inr (by simp [h, phaseMove])
  · exact enterNext_moves p (.inl h)

theorem segmentEnd_moves (p : Params) (b : Block) : b.Moves (segmentEnd p b) := by
  rcases segmentEnd_cases p b with ⟨_, e⟩ | ⟨hq, e⟩ | ⟨hq, _, e⟩ | ⟨hq, _, e⟩ | ⟨hq, e⟩ | ⟨hq, e⟩ <;> rw [e]
  · exact .inl ⟨rfl, rfl⟩
  · exact .inr (by simp [hq, phaseMove])
  · exact .inr (by simp [hq, phaseMove])
  · exact enterSpace_moves p (b := { b with ctr := b.ctr - 26 }) hq
  · exact enterNext_moves p (.inr hq)
  · exact .inr (by simp [hq, phaseMove])

theorem advance_moves (p : Params) (b : Block) : b.Moves (advance p b) := by
  rcases advance_cases p b with ⟨_, e⟩ | ⟨_, _, e⟩ | ⟨_, _, e⟩ <;> rw [e]
  · exact .inl ⟨rfl, rfl⟩
  · exact .inl ⟨rfl, rfl⟩
  · exact segmentEnd_moves p { b with tmr := 0 }

theorem accept_moves (p : Params) (d : Byte) {b : Block} (h : b.phase = .idle) : b.Moves (accept p d b) := by
  refine .inr ⟨?_, fun hbusy => absurd h hbusy, by simp [h], by simp [h]⟩
  rw [h, accept, enterPair]
  rcases enterPairs_cases p (pairIndices.drop (0 : Fin 14).val) { b with selR := d, done := false } with
    ⟨_, _, _, e⟩ | ⟨_, _, _, _, e⟩ | ⟨_, e⟩ <;> rw [e] <;> rfl

/-- Settles O34: an accept and the timing step are the only moves of the sequencer; the flags do not count. -/
theorem phaseTakesOnlyTheListedTransitions : Obligations.PhaseTakesOnlyTheListedTransitions := by
  intro i s t h
  have hadv : s.block.Moves (advance s.params s.block) := advance_moves s.params s.block
  rcases exec_next h with ⟨_, _, rfl⟩ | ⟨d, _, rfl⟩ | ⟨d, _, _, rfl⟩ | ⟨d, n, _, hp, _, rfl⟩ | ⟨d, _, _, _, rfl⟩
  · -- no access, a read or an ignored write
    exact hadv
  · -- a STATUS write
    exact hadv
  · -- an Overrun
    exact hadv
  · -- an accept
    exact accept_moves s.params d hp
  · -- an InvalidSelector
    exact .inl ⟨rfl, rfl⟩

end Sys2Proof.Machine

/-!
SUPPORT and proofs for 41_pulse_table.md and 00_scope.md section 3: LOOKUP for every selector (R100, R107), SEL_MAP as a
bijection between the selectors 1 to 12 and the names (R106), and that no step reads a name.
-/

namespace Sys2Proof.Machine

/-! ### LOOKUP and the open tables -/

theorem lookup_of_no_table {p : Params} {sel : Byte} (h : tableIndex? sel = none) : lookup p sel = none := by
  simp [lookup, h]

/-- Before selector 3 a table stands in PULSE_TABLE at its own place (41_pulse_table.md R104). -/
theorem pulseTable_of_lt_two (p : Params) {n : Fin 12} (hlt : n.val < 2) (h : n.val < 11) :
    pulseTable p n = p.openTables[n.val] := by
  rw [pulseTable, dif_pos hlt]

/-- After selector 3, which is no parameter, a table stands one place earlier (41_pulse_table.md R104). -/
theorem pulseTable_of_two_lt (p : Params) {n : Fin 12} (hlt : 2 < n.val) (h : n.val - 1 < 11) :
    pulseTable p n = p.openTables[n.val - 1] := by
  rw [pulseTable, dif_neg (by omega), if_neg (by omega)]

/-- Settles O36: `tableIndex?` decides whether there is a table, and LOOKUP gives it back in order. -/
theorem lookupReturnsTheSelectorsOwnTable : Obligations.LookupReturnsTheSelectorsOwnTable := by
  intro p sel
  refine ⟨fun n hn => ⟨?_, pulseTable_of_lt_two p, pulseTable_of_two_lt p⟩, fun hout => ?_⟩
  · exact lookup_of_table (tableIndex?_eq_some.2 hn)
  · exact lookup_of_no_table (tableIndex?_eq_none.2 hout)

/-! ### SEL_MAP -/

theorem selectorName?_eq_some {p : Params} {sel : Byte} {x : Channel × Command} :
    selectorName? p sel = some x ↔ ∃ n : Fin 12, tableIndex? sel = some n ∧ p.selMap[n.val] = x := by
  simp [selectorName?]

/-- In a map that names no pair twice, the selector found for a name is the one at the name's place. -/
theorem selectorOf?_eq_some {p : Params} (hnodup : p.selMap.toList.Nodup) {ch : Channel} {cmd : Command} {sel : Byte} :
    selectorOf? p ch cmd = some sel ↔ ∃ n : Fin 12, tableIndex? sel = some n ∧ p.selMap[n.val] = (ch, cmd) := by
  simp only [selectorOf?, Option.map_eq_some_iff, List.findIdx?_eq_some_iff_getElem, Vector.length_toList,
    Vector.getElem_toList, beq_iff_eq, tableIndex?_eq_some]
  constructor
  · rintro ⟨k, ⟨hk, hname, _⟩, rfl⟩
    exact ⟨⟨k, hk⟩, Nat.mod_eq_of_lt (by omega), hname⟩
  · rintro ⟨n, hn, hname⟩
    refine ⟨n.val, ⟨n.isLt, hname, fun j hj hname' => ?_⟩, ?_⟩
    · have hsame : p.selMap.toList[j]'(by simp; omega) = p.selMap.toList[n.val]'(by simp) := by
        simpa [hname] using hname'
      have := hnodup.getElem_inj_iff.1 hsame
      omega
    · rw [← hn, BitVec.ofNat_toNat, BitVec.setWidth_eq]

/-- The twelve names, as the default map lists them. -/
theorem mem_defaultSelMap (x : Channel × Command) : x ∈ Config.defaultSelMap.toList := by
  obtain ⟨ch, cmd⟩ := x
  cases ch <;> cases cmd <;> decide

/-- Twelve different names are all the names. -/
theorem mem_selMap {p : Params} (hnodup : p.selMap.toList.Nodup) (x : Channel × Command) : x ∈ p.selMap.toList := by
  have hsub : p.selMap.toList.Subperm Config.defaultSelMap.toList :=
    List.subperm_of_subset hnodup fun y _ => mem_defaultSelMap y
  have hlen : Config.defaultSelMap.toList.length ≤ p.selMap.toList.length := by simp
  exact (hsub.perm_of_length_le hlen).mem_iff.2 (mem_defaultSelMap x)

/-- Every name has a place, so a selector 1 to 12. -/
theorem exists_selectorOf? {p : Params} (hnodup : p.selMap.toList.Nodup) (ch : Channel) (cmd : Command) :
    ∃ sel : Byte, (1 ≤ sel.toNat ∧ sel.toNat ≤ 12) ∧ selectorOf? p ch cmd = some sel := by
  obtain ⟨k, hk, hname⟩ := List.mem_iff_getElem.1 (mem_selMap hnodup (ch, cmd))
  rw [Vector.length_toList] at hk
  have htable : tableIndex? (BitVec.ofNat 8 (k + 1)) = some ⟨k, hk⟩ :=
    tableIndex?_eq_some.2 (Nat.mod_eq_of_lt (by omega))
  exact ⟨_, valid_of_tableIndex? htable, (selectorOf?_eq_some hnodup).2 ⟨_, htable, by simpa using hname⟩⟩

/-- Settles O39: name and selector both say that the name stands at the selector's place of a map without repetition. -/
theorem selectorMapIsABijection : Obligations.SelectorMapIsABijection := by
  rintro p ⟨_, hnodup, hthree⟩
  refine ⟨fun sel ch cmd => selectorName?_eq_some.trans (selectorOf?_eq_some hnodup).symm, fun ch cmd => ?_, ?_⟩
  · obtain ⟨sel, ⟨hlo, hhi⟩, hsel⟩ := exists_selectorOf? hnodup ch cmd
    exact ⟨sel, hlo, hhi, hsel⟩
  · exact selectorName?_eq_some.2 ⟨2, tableIndex?_eq_some.2 rfl, hthree⟩

/-- Settles O38: the default map evaluated at its twelve names. -/
theorem defaultSelectorMapIsChannelMajor : Obligations.DefaultSelectorMapIsChannelMajor := by
  unfold Obligations.DefaultSelectorMapIsChannelMajor
  decide

/-! ### A step with other names -/

/-- The parameters with another SEL_MAP. -/
def withSelMap (p : Params) (m : Vector (Channel × Command) 12) : Params := { p with selMap := m }

/-- The machine with another SEL_MAP. -/
def State.withNames (s : State) (m : Vector (Channel × Command) 12) : State :=
  { s with params := withSelMap s.params m }

theorem enterPairs_withSelMap (p : Params) (m : Vector (Channel × Command) 12) (is : List (Fin 14)) (b : Block) :
    enterPairs (withSelMap p m) is b = enterPairs p is b := by
  induction is generalizing b with
  | nil => rfl
  | cons i rest ih =>
    have hmark : markRead (withSelMap p m) b.selR i = markRead p b.selR i := rfl
    have hspace : spaceRead (withSelMap p m) b.selR i = spaceRead p b.selR i := rfl
    simp only [enterPairs, hmark, hspace, ih]
    rfl

theorem enterSpace_withSelMap (p : Params) (m : Vector (Channel × Command) 12) (i : Fin 14) (b : Block) :
    enterSpace (withSelMap p m) i b = enterSpace p i b := by
  have hspace : spaceRead (withSelMap p m) b.selR i = spaceRead p b.selR i := rfl
  simp only [enterSpace, hspace, enterNext, enterPairs_withSelMap]
  rfl

theorem segmentEnd_withSelMap (p : Params) (m : Vector (Channel × Command) 12) (b : Block) :
    segmentEnd (withSelMap p m) b = segmentEnd p b := by
  cases hq : b.phase with
  | idle => simp only [segmentEnd, hq]
  | markHi => rw [segmentEnd_markHi hq, segmentEnd_markHi hq]; rfl
  | markLo => rw [segmentEnd_markLo hq, segmentEnd_markLo hq, enterSpace_withSelMap]; rfl
  | space => rw [segmentEnd_space hq, segmentEnd_space hq]; exact enterPairs_withSelMap ..
  | guard => rw [segmentEnd_guard hq, segmentEnd_guard hq]

theorem advance_withSelMap (p : Params) (m : Vector (Channel × Command) 12) (b : Block) :
    advance (withSelMap p m) b = advance p b := by
  simp only [advance, segmentEnd_withSelMap]

theorem accept_withSelMap (p : Params) (m : Vector (Channel × Command) 12) (d : Byte) (b : Block) :
    accept (withSelMap p m) d b = accept p d b :=
  enterPairs_withSelMap ..

/-- An instruction answers the same with other names. -/
theorem exec_withNames {i : Instr} {s t : State} (m : Vector (Channel × Command) 12) (h : exec i s = .next t) :
    exec i (s.withNames m) = .next (t.withNames m) := by
  have hadv : advance (s.withNames m).params (s.withNames m).block = advance s.params s.block := advance_withSelMap ..
  rcases exec_next h with ⟨hi, hw, rfl⟩ | ⟨d, rfl, rfl⟩ | ⟨d, hi, hp, rfl⟩ | ⟨d, n, hi, hp, hn, rfl⟩ |
    ⟨d, hi, hp, hn, rfl⟩
  · -- no access, a read or an ignored write
    rw [exec_other _ hi hw, tick, hadv]
    rfl
  · -- a STATUS write
    exact tick_next.2 (by rw [hadv]; rfl)
  · -- an Overrun
    rw [exec_cmd _ hi, cmdTick_busy (s := s.withNames m) hp, tick, hadv]
    rfl
  · -- an accept
    have hacc : accept (s.withNames m).params d s.block = accept s.params d s.block := accept_withSelMap ..
    rw [exec_cmd _ hi, cmdTick_accept (s := s.withNames m) hp hn, tick, hadv, advance_idle hp, hacc]
    rfl
  · -- an InvalidSelector
    rw [exec_cmd _ hi, cmdTick_invalid (s := s.withNames m) hp hn, tick, hadv, advance_idle hp]
    rfl

/-- Settles O40: the host's input is the same, and neither the reset tick nor an instruction reads a name. -/
theorem selectorNamesDoNotChangeAnyStep : Obligations.SelectorNamesDoNotChangeAnyStep := by
  intro s t m h
  change step (s.withNames m) = .next (t.withNames m)
  have hin : nextInput (s.withNames m) = nextInput s := rfl
  obtain ⟨i, hf, ⟨hr, hreset⟩ | ⟨hr, hexec⟩⟩ := step_next h
  · rw [step_of_rst (hin ▸ hr) (hin ▸ hf), resetTick_next.1 hreset]
    rfl
  · rw [step_of_not_rst (hin ▸ hr) (hin ▸ hf)]
    exact exec_withNames (s := s.consume) m hexec

end Sys2Proof.Machine

/-!
SUPPORT and proofs for the waveforms of 42_carrier_modulator.md (R123, R124) and 43_pulse_sequencer.md (R147, R152): the
loop of a mark is so many whole cycles, and durations add up over a frame. `cyclesLeft` is that number for any counter,
so that it also serves a mark that has begun.
-/

namespace Sys2Proof.Machine

/-! ### Whole cycles -/

/-- The carrier cycles a counter of `c` µs still stands for: 26 µs each, the last one begun while `c` is above zero. -/
def cyclesLeft (c : Int) : Nat := ((c + 25) / 26).toNat

/-- So many carrier cycles. -/
def cycles (p : Params) (k : Nat) : Waveform := (List.replicate k (carrierCycle p)).flatten

theorem cyclesLeft_of_nonpos {c : Int} (h : c ≤ 0) : cyclesLeft c = 0 := by
  unfold cyclesLeft
  omega

theorem cyclesLeft_of_pos {c : Int} (h : 0 < c) : cyclesLeft c = cyclesLeft (c - 26) + 1 := by
  unfold cyclesLeft
  omega

/-- A mark's counter stands for N(m) cycles (42_carrier_modulator.md R124). -/
theorem cyclesLeft_markLoad (m : Entry) : cyclesLeft (markLoad m) = cycleCount m := by
  unfold cyclesLeft markLoad cycleCount
  omega

@[simp] theorem cycles_zero (p : Params) : cycles p 0 = [] := rfl

theorem cycles_succ (p : Params) (k : Nat) : cycles p (k + 1) = carrierCycle p ++ cycles p k := by
  simp [cycles, List.replicate_succ]

/-- With fuel enough for the counter, the loop of R123 is the cycles the counter stands for. -/
theorem markLoop_eq_cycles {p : Params} {fuel : Nat} {c : Int} (h : c ≤ 26 * fuel) :
    markLoop p fuel c = cycles p (cyclesLeft c) := by
  induction fuel generalizing c with
  | zero =>
    rw [cyclesLeft_of_nonpos (by omega)]
    rfl
  | succ fuel ih =>
    rw [markLoop]
    split
    case isTrue hpos => rw [cyclesLeft_of_pos hpos, cycles_succ, ih (by omega)]
    case isFalse hle =>
      rw [cyclesLeft_of_nonpos (by omega)]
      rfl

theorem markWave_eq_cycles (p : Params) (m : Entry) : markWave p m = cycles p (cycleCount m) := by
  have hfuel : markLoad m ≤ 26 * m.toNat := by unfold markLoad; omega
  rw [markWave, markLoop_eq_cycles hfuel, cyclesLeft_markLoad]

/-! ### Durations -/

@[simp] theorem dur_nil : dur [] = 0 := rfl

@[simp] theorem dur_cons (g : Segment) (w : Waveform) : dur (g :: w) = g.ticks + dur w := by simp [dur]

@[simp] theorem dur_append (v w : Waveform) : dur (v ++ w) = dur v + dur w := by simp [dur]

theorem dur_flatMap {α : Type} (l : List α) (f : α → Waveform) :
    dur (l.flatMap f) = (l.map fun x => dur (f x)).sum := by
  induction l with
  | nil => rfl
  | cons x l ih => simp [ih]

/-- A waveform has one level for each of its ticks. -/
theorem length_expand (w : Waveform) : (expand w).length = dur w := by
  simp [expand, dur, List.length_flatMap]

theorem dur_cycles (p : Params) (k : Nat) : dur (cycles p k) = 2 * halfTicks p * k := by
  induction k with
  | zero => rfl
  | succ k ih =>
    rw [cycles_succ, dur_append, ih, Nat.mul_succ]
    simp [carrierCycle]
    omega

theorem dur_spaceWave (p : Params) (s : Entry) : dur (spaceWave p s) = spaceTicks p s := by
  unfold spaceWave
  split
  case isTrue => simp
  case isFalse hzero =>
    have : s.toNat = 0 := by omega
    simp [spaceTicks, this]

theorem dur_pairWave (p : Params) (n : Fin 12) (i : Fin 14) :
    dur (pairWave p n i) = 2 * halfTicks p * cycleCount (mark p n i) + spaceTicks p (space p n i) := by
  rw [pairWave, dur_append, markWave_eq_cycles, dur_cycles, dur_spaceWave]

theorem dur_seqWave (p : Params) (n : Fin 12) :
    dur (seqWave p n) =
      (pairIndices.map fun i => 2 * halfTicks p * cycleCount (mark p n i) + spaceTicks p (space p n i)).sum := by
  simp only [seqWave, dur_flatMap, dur_pairWave]

theorem dur_guardWave (p : Params) : dur (guardWave p) = guardTicks p := rfl

/-- The frame lasts T(sel) ticks (43_pulse_sequencer.md R147). -/
theorem dur_frame (p : Params) (n : Fin 12) : dur (frame p n) = frameTicks p n := by
  rw [frame, dur_append, dur_seqWave, dur_guardWave, frameTicks]

/-! ### The obligations -/

/-- Settles O41: `markWave_eq_cycles` and `dur_cycles`, with HALF_T and N(m) written out. -/
theorem markIsItsCountOfWholeCycles : Obligations.MarkIsItsCountOfWholeCycles := by
  intro p m
  have hwave : markWave p m = cycles p ((10 * m.toNat + 25) / 26) := markWave_eq_cycles p m
  exact ⟨hwave, hwave ▸ dur_cycles ..⟩

/-- Settles O42: `dur_frame`, with the marks and spaces as the table holds them. -/
theorem frameLastsTheSumOfItsSegments : Obligations.FrameLastsTheSumOfItsSegments := by
  intro p n
  refine ⟨length_expand _, ?_, dur_frame p n, Nat.le_add_left ..⟩
  rw [dur_frame]
  simp only [frameTicks, mark_eq_pulseTable, space_eq_pulseTable]
  rfl

/-- Settles O43: the sum of `dur_seqWave` over the source's table, with half-cycles of 13 ticks. -/
theorem selectorThreeFrameLasts45186Ticks : Obligations.SelectorThreeFrameLasts45186Ticks := by
  intro p hticks hcomp
  have hhalf : halfTicks p = 13 := by simp [halfTicks, hticks, hcomp]
  have hguard : guardTicks p = 30000 := by simp [guardTicks, hticks]
  have hseq : dur (seqWave p 2) = 15186 := by
    simp only [dur_seqWave, mark_eq_pulseTable, space_eq_pulseTable, pulseTable_two, hhalf, spaceTicks, hticks]
    simp [pairIndices, selector3Table, cycleCount]
  refine ⟨hseq, ?_⟩
  rw [← dur_frame, frame, dur_append, hseq, dur_guardWave, hguard]

end Sys2Proof.Machine

/-!
SUPPORT and proofs for 44_transmission_engine.md section 1, the run of a frame (R164 to R166). `waveLeft` is the
waveform a block still has to show, written for each phase. Each tick of a busy block shows its first level and
leaves the rest (`expand_waveLeft`), whatever the host's operation is; so a run of an undisturbed frame shows the levels
one by one (`State.Sends.run`), and it ends in IDLE with DONE.
-/

namespace Sys2Proof.Machine

/-! ### What a block still has to show -/

/-- The pairs from pair `k` on, and the guard. -/
def pairsFrom (p : Params) (n : Fin 12) (k : Nat) : Waveform :=
  (pairIndices.drop k).flatMap (pairWave p n) ++ guardWave p

/-- What follows the carrier cycle that runs: the mark's other cycles, the pair's space, the later pairs, the guard. -/
def afterCycle (p : Params) (n : Fin 12) (b : Block) : Waveform :=
  cycles p (cyclesLeft (b.ctr - 26)) ++ (spaceWave p (space p n b.idx) ++ pairsFrom p n (b.idx.val + 1))

/-- The rest of the frame of selector `n + 1`, from the block's tick on; nothing in IDLE. -/
def waveLeft (p : Params) (n : Fin 12) (b : Block) : Waveform :=
  match b.phase with
  | .idle => []
  | .markHi => ⟨true, b.tmr⟩ :: ⟨false, halfTicks p⟩ :: afterCycle p n b
  | .markLo => ⟨false, b.tmr⟩ :: afterCycle p n b
  | .space => ⟨false, b.tmr⟩ :: pairsFrom p n (b.idx.val + 1)
  | .guard => [⟨false, b.tmr⟩]

theorem waveLeft_idle (p : Params) (n : Fin 12) {b : Block} (h : b.phase = .idle) : waveLeft p n b = [] := by
  simp [waveLeft, h]

theorem waveLeft_markHi (p : Params) (n : Fin 12) {b : Block} (h : b.phase = .markHi) :
    waveLeft p n b = ⟨true, b.tmr⟩ :: ⟨false, halfTicks p⟩ :: afterCycle p n b := by
  simp [waveLeft, h]

theorem waveLeft_markLo (p : Params) (n : Fin 12) {b : Block} (h : b.phase = .markLo) :
    waveLeft p n b = ⟨false, b.tmr⟩ :: afterCycle p n b := by
  simp [waveLeft, h]

theorem waveLeft_space (p : Params) (n : Fin 12) {b : Block} (h : b.phase = .space) :
    waveLeft p n b = ⟨false, b.tmr⟩ :: pairsFrom p n (b.idx.val + 1) := by
  simp [waveLeft, h]

theorem waveLeft_guard (p : Params) (n : Fin 12) {b : Block} (h : b.phase = .guard) :
    waveLeft p n b = [⟨false, b.tmr⟩] := by
  simp [waveLeft, h]

/-- The flags and `sel_r` do not count. -/
theorem waveLeft_congr (p : Params) (n : Fin 12) {a b : Block} (hphase : a.phase = b.phase) (hidx : a.idx = b.idx)
    (hctr : a.ctr = b.ctr) (htmr : a.tmr = b.tmr) : waveLeft p n a = waveLeft p n b := by
  simp only [waveLeft, afterCycle, hphase, hidx, hctr, htmr]

/-- When a mark's counter is above zero and its high half begins, all its cycles are left. -/
theorem waveLeft_enterHigh (p : Params) (n : Fin 12) {b : Block} (hpos : 0 < b.ctr) :
    waveLeft p n (enterHigh p b) =
      cycles p (cyclesLeft b.ctr) ++ (spaceWave p (space p n b.idx) ++ pairsFrom p n (b.idx.val + 1)) := by
  rw [cyclesLeft_of_pos hpos, cycles_succ]
  rfl

theorem waveLeft_enterSilence (p : Params) (n : Fin 12) {b : Block} (hpos : 0 < (space p n b.idx).toNat) :
    waveLeft p n (enterSilence p (space p n b.idx) b) =
      spaceWave p (space p n b.idx) ++ pairsFrom p n (b.idx.val + 1) := by
  rw [spaceWave, if_pos hpos]
  rfl

theorem cycles_of_no_mark (p : Params) {c : Int} (h : c ≤ 0) : cycles p (cyclesLeft c) = [] := by
  rw [cyclesLeft_of_nonpos h, cycles_zero]

theorem spaceWave_of_zero (p : Params) {v : Entry} (h : ¬ 0 < v.toNat) : spaceWave p v = [] := if_neg h

/-- The first of the pairs still to send, and those after it. -/
theorem pairIndices_drop_cons {k : Nat} {i : Fin 14} {rest : List (Fin 14)} (h : pairIndices.drop k = i :: rest) :
    pairIndices.drop (i.val + 1) = rest := by
  have hk : k < 14 := by
    by_contra hge
    have hnil : pairIndices.drop k = [] := List.drop_eq_nil_of_le (by simpa [pairIndices] using hge)
    simp [hnil] at h
  rw [pairIndices_drop ⟨k, hk⟩] at h
  obtain ⟨rfl, hrest⟩ := List.cons.inj h
  exact hrest

/-- Entering the pairs from pair `k` on leaves those pairs and the guard to show (43_pulse_sequencer.md R143, R145). -/
theorem waveLeft_enterPairs {p : Params} {n : Fin 12} {is : List (Fin 14)} {k : Nat} {b : Block}
    (his : pairIndices.drop k = is) (htable : tableIndex? b.selR = some n) :
    waveLeft p n (enterPairs p is b) = pairsFrom p n k := by
  induction is generalizing k b with
  | nil =>
    simp only [pairsFrom, his]
    rfl
  | cons i rest ih =>
    have hrest : pairIndices.drop (i.val + 1) = rest := pairIndices_drop_cons his
    have hpairs : pairsFrom p n k =
        cycles p (cyclesLeft (markLoad (mark p n i))) ++ (spaceWave p (space p n i) ++ pairsFrom p n (i.val + 1)) := by
      simp [pairsFrom, his, hrest, pairWave, markWave_eq_cycles, cyclesLeft_markLoad]
    simp only [enterPairs, markRead_of_table htable, spaceRead_of_table htable]
    rw [hpairs]
    split_ifs with hmark hspace
    · exact waveLeft_enterHigh p n (b := { b with idx := i, ctr := markLoad (mark p n i) }) hmark
    · rw [cycles_of_no_mark p (not_lt.1 hmark)]
      exact waveLeft_enterSilence p n (b := { b with idx := i, ctr := markLoad (mark p n i) }) hspace
    · rw [cycles_of_no_mark p (not_lt.1 hmark), spaceWave_of_zero p hspace]
      exact ih (b := { b with idx := i, ctr := markLoad (mark p n i) }) hrest htable

theorem waveLeft_enterNext {p : Params} {n : Fin 12} {b : Block} (htable : tableIndex? b.selR = some n) :
    waveLeft p n (enterNext p b.idx b) = pairsFrom p n (b.idx.val + 1) :=
  waveLeft_enterPairs rfl htable

theorem waveLeft_enterSpace {p : Params} {n : Fin 12} {b : Block} (htable : tableIndex? b.selR = some n) :
    waveLeft p n (enterSpace p b.idx b) = spaceWave p (space p n b.idx) ++ pairsFrom p n (b.idx.val + 1) := by
  simp only [enterSpace, spaceRead_of_table htable]
  split_ifs with hspace
  · exact waveLeft_enterSilence p n hspace
  · rw [spaceWave_of_zero p hspace]
    exact waveLeft_enterNext htable

/-- An accepted request has the whole frame to show. -/
theorem waveLeft_accept {p : Params} {n : Fin 12} {d : Byte} (b : Block) (htable : tableIndex? d = some n) :
    waveLeft p n (accept p d b) = frame p n :=
  waveLeft_enterPairs (k := 0) (b := { b with selR := d, done := false }) rfl htable

/-! ### One tick shows one level -/

theorem irOut_of_ne {b : Block} (h : b.phase ≠ .markHi) : irOut b = false := by
  simp [irOut, h]

/-- The running segment comes first, then what the end of the segment begins (44_transmission_engine.md R192). -/
theorem waveLeft_eq_cons {p : Params} {n : Fin 12} {b : Block} (hbusy : b.phase ≠ .idle)
    (htable : tableIndex? b.selR = some n) :
    waveLeft p n b = ⟨irOut b, b.tmr⟩ :: waveLeft p n (segmentEnd p { b with tmr := 0 }) := by
  rcases segmentEnd_cases p { b with tmr := 0 } with ⟨hq, _⟩ | ⟨hq, e⟩ | ⟨hq, hc, e⟩ | ⟨hq, hc, e⟩ | ⟨hq, e⟩ |
    ⟨hq, e⟩ <;> replace hq : b.phase = _ := hq
  · exact absurd hq hbusy
  · rw [e, waveLeft_markHi p n hq, irOut_iff.2 hq]
    rfl
  · rw [e, waveLeft_markLo p n hq, irOut_of_ne (by simp [hq]),
      waveLeft_enterHigh p n (b := { b with tmr := 0, ctr := b.ctr - 26 }) (by simpa using hc)]
    rfl
  · rw [e, waveLeft_markLo p n hq, irOut_of_ne (by simp [hq]), afterCycle, cycles_of_no_mark p (by simpa using hc),
      List.nil_append]
    exact congrArg _ (waveLeft_enterSpace (b := { b with tmr := 0, ctr := b.ctr - 26 }) htable).symm
  · rw [e, waveLeft_space p n hq, irOut_of_ne (by simp [hq])]
    exact congrArg _ (waveLeft_enterNext (b := { b with tmr := 0 }) htable).symm
  · rw [e, waveLeft_guard p n hq, irOut_of_ne (by simp [hq])]
    rfl

theorem expand_cons_zero (l : Bool) (w : Waveform) : expand (⟨l, 0⟩ :: w) = expand w := by simp [expand]

theorem expand_cons_succ (l : Bool) (k : Nat) (w : Waveform) :
    expand (⟨l, k + 1⟩ :: w) = l :: expand (⟨l, k⟩ :: w) := by
  simp [expand, List.replicate_succ]

/-- A tick of a busy block shows the first level left, and the timing step leaves the others. -/
theorem expand_waveLeft {p : Params} {n : Fin 12} {b : Block} (hinv : b.Inv p) (hbusy : b.phase ≠ .idle)
    (htable : tableIndex? b.selR = some n) :
    expand (waveLeft p n b) = irOut b :: expand (waveLeft p n (advance p b)) := by
  obtain ⟨k, hk⟩ : ∃ k, b.tmr = k + 1 := ⟨b.tmr - 1, by have := hinv.tmr_pos hbusy; omega⟩
  rw [waveLeft_eq_cons hbusy htable, hk, expand_cons_succ]
  congr 1
  cases k with
  | zero => rw [expand_cons_zero, advance_last hbusy hk]
  | succ k =>
    rw [advance_count hbusy (by omega), waveLeft_eq_cons (b := { b with tmr := b.tmr - 1 }) hbusy htable]
    simp only [hk, Nat.add_sub_cancel]
    rfl

/-- Only the last tick of the guard leads to IDLE, and `idx` is 13 then. -/
theorem advance_ends {p : Params} {b : Block} (hinv : b.Inv p) (hbusy : b.phase ≠ .idle)
    (hidle : (advance p b).phase = .idle) : b.phase = .guard ∧ b.tmr = 1 ∧ (advance p b).idx = 13 := by
  have hguard : b.phase = .guard := by
    obtain ⟨hsame, _⟩ | ⟨hmove, _⟩ := advance_moves p b
    · exact absurd (hsame.symm.trans hidle) hbusy
    · rw [hidle] at hmove
      cases hq : b.phase <;> simp [hq, phaseMove] at hmove hbusy ⊢
  have hone : b.tmr = 1 := by
    have hpos := hinv.tmr_pos hbusy
    by_contra hmore
    rw [advance_count hbusy (by omega)] at hidle
    exact hbusy hidle
  refine ⟨hguard, hone, ?_⟩
  rw [advance_last hbusy hone, segmentEnd_guard (b := { b with tmr := 0 }) hguard]
  exact hinv.guard_idx hguard

/-! ### The host's inputs -/

theorem State.Undisturbed.nextInput {k : Nat} {s : State} (h : s.Undisturbed (k + 1)) :
    (nextInput s).Legal ∧ (nextInput s).rst = false := by
  unfold Machine.nextInput
  cases hin : s.inputs with
  | nil => exact ⟨by simp [HostTick.Legal, HostTick.quiet], rfl⟩
  | cons x rest => exact h x (by simp [hin])

theorem State.Undisturbed.tail {k : Nat} {s t : State} (h : s.Undisturbed (k + 1)) (ht : t.inputs = s.inputs.tail) :
    t.Undisturbed k := by
  intro x hx
  apply h
  cases hin : s.inputs with
  | nil => simp [ht, hin] at hx
  | cons y rest =>
    rw [ht, hin, List.tail_cons] at hx
    exact List.mem_cons_of_mem y hx

theorem step_inputs {s t : State} (h : step s = .next t) : t.inputs = s.inputs.tail := by
  obtain ⟨r, e, b, rfl⟩ := step_observes h
  rw [observe_inputs, consume_inputs]

/-! ### A frame in progress -/

/-- The block of `s` sends the frame of selector `n + 1` and has `levels` left to show; once none is left, the frame has
ended with DONE set. -/
structure State.Sends (n : Fin 12) (levels : List Bool) (s : State) : Prop where
  inv : s.Inv
  table : tableIndex? s.block.selR = some n
  left : expand (waveLeft s.params n s.block) = levels
  ended : s.block.phase = .idle → s.block.done = true ∧ s.block.idx = 13

theorem State.Sends.busy {n : Fin 12} {l : Bool} {ls : List Bool} {s : State} (h : s.Sends n (l :: ls)) :
    s.block.phase ≠ .idle := by
  intro hidle
  have hleft := h.left
  rw [waveLeft_idle _ n hidle] at hleft
  simp [expand] at hleft

theorem State.Sends.irOut {n : Fin 12} {l : Bool} {ls : List Bool} {s : State} (h : s.Sends n (l :: ls)) :
    irOut s.block = l := by
  have hleft := h.left
  rw [expand_waveLeft h.inv.block h.busy h.table] at hleft
  exact (List.cons.inj hleft).1

theorem State.Sends.idle {n : Fin 12} {s : State} (h : s.Sends n []) : s.block.phase = .idle := by
  by_contra hbusy
  have hleft := h.left
  rw [expand_waveLeft h.inv.block hbusy h.table] at hleft
  cases hleft

/-- The selector in `sel_r` is the one of the table. -/
theorem State.Sends.selR {n : Fin 12} {levels : List Bool} {s : State} {sel : Byte} (h : s.Sends n levels)
    (hsel : tableIndex? sel = some n) : s.block.selR = sel :=
  BitVec.eq_of_toNat_eq ((tableIndex?_eq_some.1 h.table).trans (tableIndex?_eq_some.1 hsel).symm)

/-- A busy block of the invariant sends what `waveLeft` says. -/
theorem sends_of_busy {s : State} (hinv : s.Inv) (hbusy : s.block.phase ≠ .idle) :
    ∃ n, s.Sends n (expand (waveLeft s.params n s.block)) := by
  have hlo := hinv.block.busy_sel hbusy
  have hhi := hinv.block.sel_le
  have htable : tableIndex? s.block.selR = some ⟨s.block.selR.toNat - 1, by omega⟩ :=
    tableIndex?_eq_some.2 (by simp only; omega)
  exact ⟨_, hinv, htable, rfl, fun hidle => absurd hidle hbusy⟩

/-- An undisturbed step takes the level shown off those left, whatever the host's operation is. -/
theorem State.Sends.step {n : Fin 12} {l : Bool} {ls : List Bool} {s : State} {k : Nat} (h : s.Sends n (l :: ls))
    (hhost : s.Undisturbed (k + 1)) : ∃ t, step s = .next t ∧ t.Sends n ls ∧ t.Undisturbed k := by
  obtain ⟨hlegal, hrst⟩ := hhost.nextInput
  obtain ⟨t, ht⟩ := stepIsTotalForALegalHost s hlegal
  obtain ⟨i, hf⟩ := fetch_of_legal hlegal
  have hexec : exec i s.consume = .next t := exec_of_step_next hf hrst ht
  obtain ⟨hphase, hidx, hselR, hctr, htmr⟩ := exec_sequencer_of_busy (s := s.consume) h.busy hexec
  have hsel : t.block.selR = s.block.selR := hselR.trans (advance_frame s.params s.block).1
  refine ⟨t, ht, ⟨stepKeepsTheInvariant s t h.inv ht, hsel ▸ h.table, ?_, fun hidle => ?_⟩, hhost.tail (step_inputs ht)⟩
  · have hleft := h.left
    rw [expand_waveLeft h.inv.block h.busy h.table] at hleft
    rw [step_params ht, waveLeft_congr s.params n hphase hidx hctr htmr]
    exact (List.cons.inj hleft).2
  · obtain ⟨hguard, hone, hlast⟩ := advance_ends h.inv.block h.busy (hphase.symm.trans hidle)
    exact ⟨(exec_done_iff (s := s.consume) h.inv.block hexec).2 (.inl ⟨hguard, hone⟩), hidx.trans hlast⟩

theorem run_succ {s t : State} (k : Nat) (h : step s = .next t) :
    Host.Core.run core (k + 1) s = Host.Core.run core k t := by
  have hstep : core.step s = .next t := h
  simp only [Host.Core.run, hstep]

/-- After `j` undisturbed ticks the first `j` levels have been shown. -/
theorem State.Sends.run {n : Fin 12} {levels : List Bool} {s : State} (h : s.Sends n levels)
    (hhost : s.Undisturbed levels.length) {j : Nat} (hj : j ≤ levels.length) :
    ∃ t : State, Host.Core.run core j s = .next t ∧ t.Sends n (levels.drop j) := by
  induction j generalizing s levels with
  | zero => exact ⟨s, rfl, h⟩
  | succ j ih =>
    cases levels with
    | nil => simp at hj
    | cons l ls =>
      obtain ⟨t, ht, hsends, hrest⟩ := h.step hhost
      rw [run_succ j ht]
      exact ih hsends hrest (by simpa using hj)

/-! ### An accepted request -/

/-- The request is accepted, and the block sends the whole frame from the next tick on. -/
theorem sends_of_request {s : State} {sel : Byte} {n : Fin 12} {k : Nat} (hp : s.params.Wf)
    (hidle : s.block.phase = .idle) (hreq : s.Requests sel) (htable : tableIndex? sel = some n)
    (hhost : s.Undisturbed (k + 1)) :
    ∃ t, step s = .next t ∧ t.Sends n (expand (frame s.params n)) ∧ t.Undisturbed k := by
  obtain ⟨hrst, i, hf, hsel⟩ := hreq
  have hvalid := valid_of_tableIndex? htable
  have hstep := (step_of_not_rst hrst hf).trans (exec_accept (s := s.consume) hsel hvalid hidle)
  refine ⟨_, hstep, ⟨⟨hp, accept_inv s.block hp hvalid⟩, ?_, ?_, fun h => ?_⟩, hhost.tail (step_inputs hstep)⟩
  · exact (congrArg tableIndex? (accept_frame s.params sel s.block).1).trans htable
  · exact congrArg expand (waveLeft_accept s.block htable)
  · exact absurd h (accept_phase_ne_idle s.params sel s.block)

/-- The levels of a frame still to show `j` + 1 ticks after the tick of the request began. -/
theorem run_of_request {s : State} {sel : Byte} {n : Fin 12} (hp : s.params.Wf) (hidle : s.block.phase = .idle)
    (hreq : s.Requests sel) (htable : tableIndex? sel = some n) (hhost : s.Undisturbed (frameTicks s.params n + 1))
    {j : Nat} (hj : j ≤ frameTicks s.params n) :
    ∃ t : State, Host.Core.run core (j + 1) s = .next t ∧ t.Sends n ((expand (frame s.params n)).drop j) := by
  have hlen : (expand (frame s.params n)).length = frameTicks s.params n := by rw [length_expand, dur_frame]
  obtain ⟨t, ht, hsends, hrest⟩ := sends_of_request hp hidle hreq htable hhost
  rw [run_succ j ht]
  exact hsends.run (hlen ▸ hrest) (hlen ▸ hj)

/-- Within the frame, after `j` ticks, the `j`-th level is shown and others follow. -/
theorem run_within_frame {s : State} {sel : Byte} {n : Fin 12} (hp : s.params.Wf) (hidle : s.block.phase = .idle)
    (hreq : s.Requests sel) (htable : tableIndex? sel = some n) (hhost : s.Undisturbed (frameTicks s.params n + 1))
    {j : Nat} (hpos : 1 ≤ j) (hj : j ≤ frameTicks s.params n) :
    ∃ (t : State) (l : Bool) (ls : List Bool), Host.Core.run core j s = .next t ∧
      (expand (frame s.params n))[j - 1]? = some l ∧ t.Sends n (l :: ls) := by
  have hlt : j - 1 < (expand (frame s.params n)).length := by rw [length_expand, dur_frame]; omega
  obtain ⟨t, ht, hsends⟩ := run_of_request hp hidle hreq htable hhost (j := j - 1) (by omega)
  rw [Nat.sub_add_cancel hpos] at ht
  rw [List.drop_eq_getElem_cons hlt] at hsends
  exact ⟨t, _, _, ht, List.getElem?_eq_getElem hlt, hsends⟩

/-- T(sel) + 1 ticks after the tick of the request began, nothing is left to show. -/
theorem run_whole_frame {s : State} {sel : Byte} {n : Fin 12} (hp : s.params.Wf) (hidle : s.block.phase = .idle)
    (hreq : s.Requests sel) (htable : tableIndex? sel = some n) (hhost : s.Undisturbed (frameTicks s.params n + 1)) :
    ∃ t : State, Host.Core.run core (frameTicks s.params n + 1) s = .next t ∧ t.Sends n [] := by
  have hnone : (expand (frame s.params n)).drop (frameTicks s.params n) = [] :=
    List.drop_eq_nil_of_le (by rw [length_expand, dur_frame])
  obtain ⟨t, ht, hsends⟩ := run_of_request hp hidle hreq htable hhost le_rfl
  exact ⟨t, ht, hnone ▸ hsends⟩

/-- Settles O44: `run_within_frame`, and the level is the pin's. -/
theorem acceptedTransmissionShowsItsFrame : Obligations.AcceptedTransmissionShowsItsFrame := by
  intro s sel n hp hidle hreq htable hhost j hpos hj
  obtain ⟨t, l, ls, ht, hlevel, hsends⟩ := run_within_frame hp hidle hreq htable hhost hpos hj
  exact ⟨t, ht, hsends.irOut ▸ hlevel⟩

/-- Settles O45: a block with a level left to show is busy, one with none is IDLE. -/
theorem busyForExactlyTheFrame : Obligations.BusyForExactlyTheFrame := by
  intro s sel n hp hidle hreq htable hhost
  refine ⟨not_busy_iff.2 hidle, fun j hpos hj => ?_, ?_⟩
  · obtain ⟨t, l, ls, ht, _, hsends⟩ := run_within_frame hp hidle hreq htable hhost hpos hj
    exact ⟨t, ht, busy_iff.2 hsends.busy, hsends.selR htable⟩
  · obtain ⟨t, ht, hsends⟩ := run_whole_frame hp hidle hreq htable hhost
    exact ⟨t, ht, not_busy_iff.2 hsends.idle⟩

/-- Settles O46: `run_whole_frame`, and what holds of a frame that has ended. -/
theorem frameEndsIdleWithDone : Obligations.FrameEndsIdleWithDone := by
  intro s sel n hp hidle hreq htable hhost
  obtain ⟨t, ht, hsends⟩ := run_whole_frame hp hidle hreq htable hhost
  obtain ⟨hdone, hidx⟩ := hsends.ended hsends.idle
  exact ⟨t, ht, hsends.idle, hdone, hidx, hsends.selR htable, irOut_of_ne (by simp [hsends.idle])⟩

/-! ### A bound for any frame in progress -/

/-- No pair lasts longer: a mark of 65535 units is 25206 cycles, a space 655350 µs. -/
def pairBound (p : Params) : Nat := 2 * halfTicks p * 25206 + 655350 * p.ticksPerUs

theorem spaceTicks_le (p : Params) (v : Entry) : spaceTicks p v ≤ 655350 * p.ticksPerUs :=
  Nat.mul_le_mul_right _ (by have := v.isLt; omega)

theorem cycles_le (p : Params) {k : Nat} (h : k ≤ 25206) : 2 * halfTicks p * k ≤ 2 * halfTicks p * 25206 :=
  Nat.mul_le_mul_left _ h

theorem dur_pairWave_le (p : Params) (n : Fin 12) (i : Fin 14) : dur (pairWave p n i) ≤ pairBound p := by
  have hcount : cycleCount (mark p n i) ≤ 25206 := by
    have := (mark p n i).isLt
    unfold cycleCount
    omega
  rw [dur_pairWave]
  exact Nat.add_le_add (cycles_le p hcount) (spaceTicks_le ..)

theorem dur_pairsFrom_le (p : Params) (n : Fin 12) (k : Nat) :
    dur (pairsFrom p n k) ≤ 14 * pairBound p + guardTicks p := by
  have hsum : ((pairIndices.drop k).map fun i => dur (pairWave p n i)).sum ≤
      (pairIndices.drop k).length * pairBound p := by
    simpa using List.sum_le_card_nsmul ((pairIndices.drop k).map fun i => dur (pairWave p n i)) (pairBound p)
      (List.forall_mem_map.2 fun i _ => dur_pairWave_le p n i)
  have hlen : (pairIndices.drop k).length ≤ 14 := by simp [pairIndices]
  rw [pairsFrom, dur_append, dur_flatMap, dur_guardWave]
  exact Nat.add_le_add_right (hsum.trans (Nat.mul_le_mul_right _ hlen)) _

/-- The cycle that runs and those after it are cycles of one mark. -/
theorem dur_afterCycle_le {p : Params} {n : Fin 12} {b : Block} (hpos : 0 < b.ctr) (hle : b.ctr ≤ 655350) :
    2 * halfTicks p + dur (afterCycle p n b) ≤ 15 * pairBound p + guardTicks p := by
  have hcount : cyclesLeft (b.ctr - 26) + 1 ≤ 25206 := by
    rw [← cyclesLeft_of_pos hpos]
    unfold cyclesLeft
    omega
  have hmark := cycles_le p hcount
  have hspace := spaceTicks_le p (space p n b.idx)
  have hpairs := dur_pairsFrom_le p n (b.idx.val + 1)
  rw [Nat.mul_succ] at hmark
  simp only [afterCycle, dur_append, dur_cycles, dur_spaceWave]
  unfold pairBound at hpairs ⊢
  omega

/-- A block of the invariant has at most 15 pairs and the guard left to show. -/
theorem dur_waveLeft_le {p : Params} {n : Fin 12} {b : Block} (hinv : b.Inv p)
    (htable : tableIndex? b.selR = some n) : dur (waveLeft p n b) ≤ 15 * pairBound p + guardTicks p := by
  cases hq : b.phase with
  | idle => simp [waveLeft_idle p n hq]
  | markHi =>
    obtain ⟨hpos, htmr⟩ := hinv.mark_range (.inl hq)
    have := dur_afterCycle_le (p := p) (n := n) hpos hinv.ctr_range.2
    simp only [waveLeft_markHi p n hq, dur_cons]
    omega
  | markLo =>
    obtain ⟨hpos, htmr⟩ := hinv.mark_range (.inr hq)
    have := dur_afterCycle_le (p := p) (n := n) hpos hinv.ctr_range.2
    simp only [waveLeft_markLo p n hq, dur_cons]
    omega
  | space =>
    have htmr := (hinv.space_range hq n htable).trans (spaceTicks_le ..)
    have := dur_pairsFrom_le p n (b.idx.val + 1)
    simp only [waveLeft_space p n hq, dur_cons]
    unfold pairBound at this ⊢
    omega
  | guard =>
    have htmr := hinv.guard_range hq
    simp only [waveLeft_guard p n hq, dur_cons, dur_nil]
    omega

/-- Settles O47: the frame ends after as many ticks as levels are left, which `dur_waveLeft_le` bounds. -/
theorem everyRunningFrameEnds : Obligations.EveryRunningFrameEnds := by
  intro s hinv hbusy hhost
  obtain ⟨n, hsends⟩ := sends_of_busy hinv hbusy
  obtain ⟨t, ht, hended⟩ := hsends.run (fun x hx => hhost x (List.mem_of_mem_take hx)) le_rfl
  rw [List.drop_length] at hended
  refine ⟨_, t, ?_, ht, hended.idle, (hended.ended hended.idle).1, hended.selR hsends.table⟩
  rw [length_expand]
  exact dur_waveLeft_le hinv.block hsends.table

end Sys2Proof.Machine
